-- ==== Sys2Proof/Word.lean ====
section
/-! DEFINITION. The bit-vector types of the block's ports and fields, and the two closed name sets
(axes, move directions) the operations are written with.  Bit 0 is the least significant bit (R10). -/

namespace Sys2Proof

/-- A 64-bit operand or result word (R20, R21): a code, a binary64 pattern, or a lower bound. -/
abbrev Word := BitVec 64

/-- A 32-bit interleaver input, or a quantized axis index (`XW` of R8). -/
abbrev Index := BitVec 32

/-- The 16-bit control word `ctl` (R20, R47). -/
abbrev Ctl := BitVec 16

/-- The 65-bit upper bound `hi` of an interval (`HIW` of R9, R100). -/
abbrev Hi := BitVec 65

/-- The 8-bit precision field `step` (`STEPW` of R8, R49). -/
abbrev StepField := BitVec 8

/-- The 2-bit direction field `dirf` (R47, R50). -/
abbrev DirField := BitVec 2

/-- The two axes of a coordinate (R18). -/
inductive Axis where
  /-- Latitude: even bit positions of a code, the `x` input of the interleaver. -/
  | lat
  /-- Longitude: odd bit positions of a code, the `y` input of the interleaver. -/
  | lon
  deriving DecidableEq, Repr

/-- The three directions of a move on one axis (R50, R87). -/
inductive Direction where
  /-- `dir = 0`: the identity (R89). -/
  | stay
  /-- `dir = +1`: north on latitude, east on longitude (R18). -/
  | plus
  /-- `dir = -1`: south on latitude, west on longitude (R18). -/
  | minus
  deriving DecidableEq, Repr

end Sys2Proof
end

