-- ==== Sys2Proof/Syntax.lean ====
section
/-! DEFINITION. The operations, one constructor per row of spec/opcode_table.json (R57), and the two
bundles a transaction is made of (R20, R21). -/

namespace Sys2Proof

/-- The operation a legal control word selects (R48, R57).  Every constructor carries the fields of
its control word that its row leaves open: `step` (R49), and `dirf` where the row does not fix it
(the operation then ignores it, R55).  Operand words are no part of the control word; they are read
from the request being executed (R12, R51). -/
inductive Instr where
  /-- INTERLEAVE (R65); `step` and `dirf` are ignored. -/
  | interleave (step : StepField) (dirf : DirField)
  /-- DEINTERLEAVE (R66); `step` and `dirf` are ignored. -/
  | deinterleave (step : StepField) (dirf : DirField)
  /-- ENCODE (R74); `dirf` is ignored. -/
  | encode (step : StepField) (dirf : DirField)
  /-- DECODE (R79); `dirf` is ignored. -/
  | decode (step : StepField) (dirf : DirField)
  /-- MOVE_LAT with `dir = 0` (R90, R89). -/
  | moveLatStay (step : StepField)
  /-- MOVE_LAT with `dir = +1`, the pseudo-operation MOVE_N (R90, R59). -/
  | moveLatNorth (step : StepField)
  /-- MOVE_LAT with `dir = -1`, the pseudo-operation MOVE_S (R90, R59). -/
  | moveLatSouth (step : StepField)
  /-- MOVE_LON with `dir = 0` (R91, R89). -/
  | moveLonStay (step : StepField)
  /-- MOVE_LON with `dir = +1`, the pseudo-operation MOVE_E (R91, R59). -/
  | moveLonEast (step : StepField)
  /-- MOVE_LON with `dir = -1`, the pseudo-operation MOVE_W (R91, R59). -/
  | moveLonWest (step : StepField)
  /-- NEIGHBORS (R93); `dirf` is ignored. -/
  | neighbors (step : StepField) (dirf : DirField)
  /-- COALESCE (R102); `step` and `dirf` are ignored. -/
  | coalesce (step : StepField) (dirf : DirField)
  deriving DecidableEq, Repr

/-- A request: the 592-bit bundle the host presents (R20, R46). -/
structure Request where
  /-- The control word: operation, direction, precision (R47). -/
  ctl : Ctl
  /-- The operand words `a[0]` to `a[8]`. -/
  a : Vector Word 9
  deriving DecidableEq, Repr, Inhabited

/-- A response: the 1168-bit bundle the block answers one request with (R21). -/
structure Response where
  /-- Bit 0 `OUT_OF_RANGE`, bit 1 `UNSUPPORTED_PRECISION`, bit 2 `ILLEGAL_OP` (R111); `000` is success. -/
  status : BitVec 3
  /-- How many result entries are valid, 0 to 9 (R52). -/
  count : BitVec 4
  /-- The result words `r[0]` to `r[8]`; for COALESCE the lower bounds `lo`. -/
  r : Vector Word 9
  /-- The upper bounds `h[0]` to `h[8]` of COALESCE's intervals; zero for every other operation. -/
  h : Vector Hi 9
  deriving DecidableEq, Repr, Inhabited

/-- An interval `[lo, hi)` of codes (R100): `hi` has 65 bits, so that `2^64` is a value of it. -/
structure Interval where
  /-- The least code of the interval. -/
  lo : Word
  /-- One past the greatest code of the interval. -/
  hi : Hi
  deriving DecidableEq, Repr, Inhabited

end Sys2Proof
end

