-- ==== Sys2Proof/Decode.lean ====
section
/-! DEFINITION. The decoder of the control word, total and rejecting by name (R47 to R57, R113), the
encoder, and the opcode table of R57 as match and mask. -/

namespace Sys2Proof

/-- `ctl[3:0]`, the operation code (R47). -/
def opField (c : Ctl) : BitVec 4 := c.extractLsb' 0 4

/-- `ctl[5:4]`, the direction field (R47). -/
def dirField (c : Ctl) : DirField := c.extractLsb' 4 2

/-- `ctl[7:6]`, the reserved field (R47). -/
def rsvField (c : Ctl) : BitVec 2 := c.extractLsb' 6 2

/-- `ctl[15:8]`, the precision field (R47, R49). -/
def stepField (c : Ctl) : StepField := c.extractLsb' 8 8

/-- Why a control word selects no operation (R54): three causes, one response (`IllegalOp`). -/
inductive IllegalCtl where
  /-- `rsv` is not `00`. -/
  | reservedBits
  /-- `op >= 8`. -/
  | reservedOp
  /-- `dirf = 10` on a MOVE. -/
  | reservedDirection
  deriving DecidableEq, Repr

/-- `dir = sext(dirf)` (R50): `10` is outside the domain of a move. -/
def directionOf (d : DirField) : Option Direction :=
  match d with
  | 0#2 => some .stay
  | 1#2 => some .plus
  | 3#2 => some .minus
  | _ => none

/-- The MOVE_LAT row that `dirf` selects (R50, R57). -/
def decodeMoveLat (step : StepField) (d : DirField) : Except IllegalCtl Instr :=
  match directionOf d with
  | some .stay => .ok (.moveLatStay step)
  | some .plus => .ok (.moveLatNorth step)
  | some .minus => .ok (.moveLatSouth step)
  | none => .error .reservedDirection

/-- The MOVE_LON row that `dirf` selects (R50, R57). -/
def decodeMoveLon (step : StepField) (d : DirField) : Except IllegalCtl Instr :=
  match directionOf d with
  | some .stay => .ok (.moveLonStay step)
  | some .plus => .ok (.moveLonEast step)
  | some .minus => .ok (.moveLonWest step)
  | none => .error .reservedDirection

/-- The operation of a code 0 to 7, with the fields of its control word; codes 8 to 15 are reserved
(R48, R54). -/
def decodeOp (op : BitVec 4) (step : StepField) (d : DirField) : Except IllegalCtl Instr :=
  match op with
  | 0#4 => .ok (.interleave step d)
  | 1#4 => .ok (.deinterleave step d)
  | 2#4 => .ok (.encode step d)
  | 3#4 => .ok (.decode step d)
  | 4#4 => decodeMoveLat step d
  | 5#4 => decodeMoveLon step d
  | 6#4 => .ok (.neighbors step d)
  | 7#4 => .ok (.coalesce step d)
  | _ => .error .reservedOp

/-- Decoding of a control word (R47, R48, R54).  Where several causes of R54 hold at once the name
answered is the first tested; the response is the same. -/
def decodeCtl (c : Ctl) : Except IllegalCtl Instr :=
  if rsvField c = 0#2 then decodeOp (opField c) (stepField c) (dirField c)
  else .error .reservedBits

/-- `ctl = (step << 8) | (dirf << 4) | op` with `rsv = 0` (R47). -/
def ctlOf (op : BitVec 4) (d : DirField) (step : StepField) : Ctl :=
  (step.setWidth 16 <<< 8) ||| (d.setWidth 16 <<< 4) ||| op.setWidth 16

/-- The encoder: the control word of an operation (R47, R48, R50, R57). -/
def encodeCtl : Instr → Ctl
  | .interleave step d => ctlOf 0#4 d step
  | .deinterleave step d => ctlOf 1#4 d step
  | .encode step d => ctlOf 2#4 d step
  | .decode step d => ctlOf 3#4 d step
  | .moveLatStay step => ctlOf 4#4 0b00#2 step
  | .moveLatNorth step => ctlOf 4#4 0b01#2 step
  | .moveLatSouth step => ctlOf 4#4 0b11#2 step
  | .moveLonStay step => ctlOf 5#4 0b00#2 step
  | .moveLonEast step => ctlOf 5#4 0b01#2 step
  | .moveLonWest step => ctlOf 5#4 0b11#2 step
  | .neighbors step d => ctlOf 6#4 d step
  | .coalesce step d => ctlOf 7#4 d step

/-- One row of the table of R57: a control word matches when `ctl & mask = pattern`. -/
structure OpcodeRow where
  /-- The row's name in spec/opcode_table.json. -/
  mnemonic : String
  /-- The column `match`. -/
  pattern : Ctl
  /-- The column `mask`. -/
  mask : Ctl
  deriving DecidableEq, Repr

/-- The table of R57, row by row. -/
def opcodeTable : List OpcodeRow :=
  [⟨"INTERLEAVE", 0x0000#16, 0x00CF#16⟩,
   ⟨"DEINTERLEAVE", 0x0001#16, 0x00CF#16⟩,
   ⟨"ENCODE", 0x0002#16, 0x00CF#16⟩,
   ⟨"DECODE", 0x0003#16, 0x00CF#16⟩,
   ⟨"MOVE_LAT_dir_0", 0x0004#16, 0x00FF#16⟩,
   ⟨"MOVE_LAT_dir_+1__MOVE_N", 0x0014#16, 0x00FF#16⟩,
   ⟨"MOVE_LAT_dir_-1__MOVE_S", 0x0034#16, 0x00FF#16⟩,
   ⟨"MOVE_LON_dir_0", 0x0005#16, 0x00FF#16⟩,
   ⟨"MOVE_LON_dir_+1__MOVE_E", 0x0015#16, 0x00FF#16⟩,
   ⟨"MOVE_LON_dir_-1__MOVE_W", 0x0035#16, 0x00FF#16⟩,
   ⟨"NEIGHBORS", 0x0006#16, 0x00CF#16⟩,
   ⟨"COALESCE", 0x0007#16, 0x00CF#16⟩]

/-- Whether a control word matches a row (R57). -/
def OpcodeRow.matches (row : OpcodeRow) (c : Ctl) : Bool := c &&& row.mask == row.pattern

/-- The table row an operation belongs to, by its mnemonic there. -/
def Instr.mnemonic : Instr → String
  | .interleave _ _ => "INTERLEAVE"
  | .deinterleave _ _ => "DEINTERLEAVE"
  | .encode _ _ => "ENCODE"
  | .decode _ _ => "DECODE"
  | .moveLatStay _ => "MOVE_LAT_dir_0"
  | .moveLatNorth _ => "MOVE_LAT_dir_+1__MOVE_N"
  | .moveLatSouth _ => "MOVE_LAT_dir_-1__MOVE_S"
  | .moveLonStay _ => "MOVE_LON_dir_0"
  | .moveLonEast _ => "MOVE_LON_dir_+1__MOVE_E"
  | .moveLonWest _ => "MOVE_LON_dir_-1__MOVE_W"
  | .neighbors _ _ => "NEIGHBORS"
  | .coalesce _ _ => "COALESCE"

/-- The operation the decoder reads from an instruction whose bits are `w`, of which the low `nbits`
count (the host's numbering: `ctl` is bits 15 to 0; the bits above are operand words, R20, which the
decoder does not read). -/
def decodeTableWord (nbits w : Nat) : Option Instr :=
  (decodeCtl (BitVec.ofNat 16 (w % 2 ^ nbits))).toOption

end Sys2Proof
end

