-- ==== Sys2Proof/Config.lean ====
section
/-! DEFINITION. What an implementation fixes: the constants of R8 and R9, and the open values of R9,
R30 and R133 as constants without a body (FREE VALUES), so that no proof can depend on one. -/

namespace Sys2Proof.Config

/-- `STEP_MIN` of R8: the least legal precision. -/
def stepMin : Nat := 1

/-- `STEP_MAX` of R8: the greatest legal precision. -/
def stepMax : Nat := 32

/-- `NCODES` of R8: codes in a neighbour set and inputs of the coalescer. -/
def nCodes : Nat := 9

/-- `MAXIV` of R8: the greatest number of intervals the coalescer emits. -/
def maxIntervals : Nat := 9

/-- `NPORTS` of R9: request and response port pairs on one instance. -/
def nPorts : Nat := 1

/-- `LAT_MIN` and `LON_MIN` of R8, the `axisMin` of R18. -/
def axisMin : Axis → ℚ
  | .lat => -90
  | .lon => -180

/-- `LAT_MAX` and `LON_MAX` of R8. -/
def axisMax : Axis → ℚ
  | .lat => 90
  | .lon => 180

/-- `LAT_RANGE` and `LON_RANGE` of R8, the `axisRange` of R18. -/
def axisRange : Axis → ℚ
  | .lat => 180
  | .lon => 360

/-- FREE VALUE (log entry 1). `DEPTH` of R9 less one: any natural number. -/
opaque extraDepth : Nat

/-- `DEPTH` of R9: how many accepted requests may be waiting for their response, at least 1. -/
def depth : Nat := extraDepth + 1

/-- FREE VALUE (log entry 2). `LATENCY` of R9 and R133: the clock cycles from a request's acceptance to
its response becoming valid.  It is drawn from the rising edge of the acceptance and from the control
word accepted, since R133 lets it "differ per operation and per implementation".  DESIGN CHOICE (log
entry 2): at one edge it depends on nothing else, neither the operand words nor the queue. -/
opaque latency : Nat → Ctl → Nat

/-- FREE VALUE (log entry 3). How many further cycles `req_ready` stays 0 after an acceptance or a
reset at the given rising edge (R130 bounds it by "a finite number of cycles" only). -/
opaque readyLag : Nat → Nat

/-- FREE VALUE (log entry 4). `req_ready` in the cycle after a reset edge (R30: unspecified). -/
opaque readyAfterReset : Nat → Bool

/-- FREE VALUE (log entry 5). `rsp_status` in a cycle in which `rsp_valid` is 0 (R30: unspecified). -/
opaque idleStatus : Nat → BitVec 3

/-- FREE VALUE (log entry 5). `rsp_count` in a cycle in which `rsp_valid` is 0 (R30: unspecified). -/
opaque idleCount : Nat → BitVec 4

/-- FREE VALUE (log entry 5). `rsp_r<k>`, by cycle and `k`, while `rsp_valid` is 0 (R30: unspecified). -/
opaque idleWord : Nat → Nat → Word

/-- FREE VALUE (log entry 5). `rsp_h<k>`, by cycle and `k`, while `rsp_valid` is 0 (R30: unspecified). -/
opaque idleHi : Nat → Nat → Hi

end Sys2Proof.Config
end

