-- ==== Sys2Proof/Machine/State.lean ====
section
/-! DEFINITION. The state of the block and of its two ports, the reasons a step can stop, and reset.

The block has no architectural state (R19, R23 to R27, R29): what is held is the interface state of
R28, what the host will drive at the coming clock edges, and the record of the run (R135).  One step
of the machine is one rising edge of `clk` (R28). -/

namespace Sys2Proof.Machine

/-- What the host drives at one rising edge of `clk` (the input signals of R28). -/
structure Pins where
  /-- `rst`: synchronous reset, active high (R125). -/
  rst : Bool
  /-- `req_valid`: the host presents a request. -/
  reqValid : Bool
  /-- `req_ctl`, `req_a0` to `req_a8`: the request presented. -/
  req : Request
  /-- `rsp_ready`: the host can take a response. -/
  rspReady : Bool
  deriving DecidableEq, Repr, Inhabited

/-- An accepted request that has not been executed (R28, R134). -/
structure Pending where
  /-- The request bundle, as accepted. -/
  req : Request
  /-- The clock cycles left of its `LATENCY` (R133; the model's own counter, log entry 2). -/
  wait : Nat
  deriving DecidableEq, Repr, Inhabited

/-- The state of one instance of the block.  The queue of R28 is `ready` (answered requests, as their
response bundles) followed by `pending` (requests not yet executed). -/
structure State where
  /-- `req_ready`, a registered output (R28). -/
  reqReady : Bool
  /-- `rsp_valid`, a registered output (R28). -/
  rspValid : Bool
  /-- The responses computed and not yet taken, oldest first (R28, R38). -/
  ready : List Response
  /-- The requests accepted and not yet executed, oldest first (R28, R38). -/
  pending : List Pending
  /-- What the host drives at the coming clock edges, the next edge first; where the list has ended
  the host drives nothing (`Pins.idle`).  The model's own field: the other agent of R134. -/
  host : List Pins
  /-- The requests accepted so far and not dropped by a reset, in order of acceptance (R129).  The
  model's own field: the record of the run that R135 speaks of. -/
  accepted : List Request
  /-- The responses the host has taken so far, in order (R135).  The model's own field. -/
  taken : List Response
  /-- Cycles until `req_ready` may rise (R130).  The model's own counter (log entry 3). -/
  readyIn : Nat
  /-- Rising edges of `clk` so far; the free values of `Config` are applied to it.  The model's own. -/
  cycle : Nat
  deriving DecidableEq, Repr

/-- Why the machine stops with a fault.  The block itself has none: its errors are responses (R109,
R116, R124), and it answers every accepted request (R130). -/
inductive Fault where
  /-- Raised by an operation's meaning that is asked to run while no accepted request is waiting.  The
  block's only step is to "take the oldest accepted request" and answer it (R134), so `step` never
  raises it.  Safe: nothing can be concluded about such a call. -/
  | noRequest
  deriving DecidableEq, Repr

/-- Why a step is refused. -/
inductive Refusal where
  /-- Raised by `exec` for an operation that has no meaning in this model, by its mnemonic.  Safe: it
  says nothing about the operation.  No arm of `exec` answers with it. -/
  | notModelled (mnemonic : String)
  deriving DecidableEq, Repr

/-- What a host that does nothing drives: no reset, no request, no readiness for a response. -/
def Pins.idle : Pins :=
  { rst := false, reqValid := false, req := ⟨0#16, Vector.replicate 9 0#64⟩, rspReady := false }

/-- The machine after reset (R30, R125): an empty queue and `rsp_valid = 0`.  `req_ready` is
unspecified there; 0 is this model's choice (log entry 6), as are the model's own fields, which start
with nothing driven and nothing recorded (log entry 7). -/
def State.reset : State :=
  { reqReady := false, rspValid := false, ready := [], pending := [], host := []
    accepted := [], taken := [], readyIn := 0, cycle := 0 }

end Sys2Proof.Machine
end

