-- ==== Sys2Proof/Machine/Ops.lean ====
section
/-! DEFINITION. The operations the meanings and the clock edge share: building a response, raising an
error (the block's whole exception mechanism, R14, R116), answering the oldest request, and the events
of one clock edge on the two ports (R28, R125 to R130). -/

namespace Sys2Proof

/-- Nine port words from the first entries of a list, `z` where the list is shorter. -/
def vec9 {α : Type} (z : α) (l : List α) : Vector α 9 :=
  #v[l.getD 0 z, l.getD 1 z, l.getD 2 z, l.getD 3 z, l.getD 4 z, l.getD 5 z, l.getD 6 z,
     l.getD 7 z, l.getD 8 z]

/-- The response with every field zero. -/
def Response.zero : Response := ⟨0#3, 0#4, vec9 0#64 [], vec9 0#65 []⟩

/-- A successful response whose results are the given words: `count` is their number, every other
word is zero (R22, R52). -/
def Response.ofWords (ws : List Word) : Response :=
  { Response.zero with count := BitVec.ofNat 4 ws.length, r := vec9 0#64 ws }

/-- A successful response whose results are the given intervals: `r[k] = lo_k`, `h[k] = hi_k` (R52,
R102). -/
def Response.ofIntervals (is : List Interval) : Response :=
  { Response.zero with
    count := BitVec.ofNat 4 is.length
    r := vec9 0#64 (is.map Interval.lo)
    h := vec9 0#65 (is.map Interval.hi) }

/-- An error response: the status bits raised, and no result (R14, R116). -/
def Response.raised (flags : BitVec 3) : Response := { Response.zero with status := flags }

/-- TAKING AN ERROR (R14, R116), the one place where it happens: several `raise` accumulate their bits
in `flags`; when any bit is set the response carries the bits and no result, and otherwise it is the
operation's result.  "No state is saved, no control is transferred" (R14), so there is no return
operation beside it: "nothing needs to be returned from, acknowledged or cleared" (R118). -/
def Response.orRaise (flags : BitVec 3) (result : Response) : Response :=
  if flags = 0#3 then result else Response.raised flags

/-- The request bundle whose bits are `n`: `ctl` is bits 15 to 0, `a[k]` the 64 bits from bit
`16 + 64 k` (R20; the order of the words is that of the bundle, log entry 8). -/
def Request.ofBits (n : Nat) : Request :=
  { ctl := BitVec.ofNat 16 n
    a := vec9 0#64 ((List.range 9).map fun k => BitVec.ofNat 64 (n >>> (16 + 64 * k))) }

namespace Machine

/-- The number of accepted requests whose responses have not been taken (the queue of R28). -/
def State.inFlight (s : State) : Nat := s.ready.length + s.pending.length

/-- Answer the oldest accepted request with a response computed from its bundle (R134): the entry of
the queue turns from a request bundle into its response bundle (R28).  Every meaning is one call of
this; nothing else of the state changes (R19, R34). -/
def State.answer (s : State) (f : Request → Response) : Host.Outcome State Fault Refusal :=
  match s.pending with
  | [] => .fault .noRequest
  | p :: rest => .next { s with pending := rest, ready := s.ready ++ [f p.req] }

/-- The response channel's payload wires `rsp_status`, `rsp_count`, `rsp_r*`, `rsp_h*` (R28): the
oldest response while `rsp_valid` is 1, unspecified (free) while it is 0 (R30). -/
def State.rspPayload (s : State) : Response :=
  match s.rspValid, s.ready with
  | true, x :: _ => x
  | _, _ =>
    { status := Config.idleStatus s.cycle
      count := Config.idleCount s.cycle
      r := vec9 0#64 ((List.range 9).map (Config.idleWord s.cycle))
      h := vec9 0#65 ((List.range 9).map (Config.idleHi s.cycle)) }

/-- What the host drives at the next rising edge. -/
def State.pins (s : State) : Pins := s.host.headD Pins.idle

/-- The host takes the oldest response when `rsp_valid = 1` and `rsp_ready = 1` (R28). -/
def State.takeResponse (s : State) : State :=
  if s.rspValid && s.pins.rspReady then
    match s.ready with
    | [] => s
    | x :: rest => { s with ready := rest, taken := s.taken ++ [x] }
  else s

/-- One clock cycle less to wait, for each request in the queue (R133). -/
def Pending.age (p : Pending) : Pending := { p with wait := p.wait - 1 }

/-- A clock cycle passes for the waiting requests and for `req_ready` (R130, R133). -/
def State.ageQueue (s : State) : State :=
  { s with pending := s.pending.map Pending.age, readyIn := s.readyIn - 1 }

/-- Whether the block accepts a request at the next edge (R28): `rst = 0`, `req_valid = 1` and
`req_ready = 1`. -/
def State.accepts (s : State) : Bool := !s.pins.rst && s.pins.reqValid && s.reqReady

/-- Whether the host takes a response at the next edge (R28): `rst = 0`, `rsp_valid = 1` and
`rsp_ready = 1`. -/
def State.takes (s : State) : Bool := !s.pins.rst && s.rspValid && s.pins.rspReady

/-- The block accepts the request on its port when `req_valid = 1` and `req_ready = 1` (R28): the
request joins the queue last (R38), with its latency drawn (R133). -/
def State.acceptRequest (s : State) : State :=
  if s.pins.reqValid && s.reqReady then
    { s with
      pending := s.pending ++ [⟨s.pins.req, Config.latency s.cycle s.pins.req.ctl⟩]
      accepted := s.accepted ++ [s.pins.req]
      readyIn := Config.readyLag s.cycle }
  else s

/-- What the two ports do at a rising edge with `rst = 0`, before the block executes: a response is
taken, a cycle passes, a request is accepted.  The order within the edge is the model's choice (log
entry 11). -/
def State.portEvents (s : State) : State := s.takeResponse.ageQueue.acceptRequest

/-- The request the block executes at this edge: the oldest accepted one (R134), once its latency is
over; that one request is executed at an edge is the model's choice (log entry 2). -/
def State.due (s : State) : Option Request :=
  match s.pending with
  | ⟨q, 0⟩ :: _ => some q
  | _ => none

/-- The registered outputs after a rising edge with `rst = 0`.  `rsp_valid` is 1 exactly while a computed
response waits; R128 only keeps it 1 until the response is taken, and that it has no cycle at 0 between
two computed responses is a DESIGN CHOICE (log entry 24).  `req_ready` is 1 only while the queue holds
fewer than `DEPTH` requests after the edge, which is the model's reading of "registered" (R28, R130; log
entry 10).  The edge is over: the host's next pins come up. -/
def State.endEdge (s : State) : State :=
  { s with
    rspValid := !s.ready.isEmpty
    reqReady := s.readyIn == 0 && decide (s.inFlight < Config.depth)
    host := s.host.tail
    cycle := s.cycle + 1 }

/-- A rising edge with `rst = 1` (R125, R126): the queue is emptied, `rsp_valid = 0`, nothing is
accepted or taken, and the requests in flight leave the run's record unanswered (the record is the
model's own, log entry 18). -/
def State.resetEdge (s : State) : State :=
  { s with
    reqReady := Config.readyAfterReset s.cycle
    rspValid := false
    ready := []
    pending := []
    host := s.host.tail
    accepted := s.accepted.take s.taken.length
    readyIn := Config.readyLag s.cycle
    cycle := s.cycle + 1 }

/-- Carry a change of the state through an outcome. -/
def mapNext (f : State → State) :
    Host.Outcome State Fault Refusal → Host.Outcome State Fault Refusal
  | .next s => .next (f s)
  | .fault e => .fault e
  | .refused e => .refused e

end Machine
end Sys2Proof
end

