-- ==== Sys2Proof/Machine/Coalescer.lean ====
section
/-! DEFINITION. Family 4, the range coalescer: COALESCE (R100 to R108). -/

namespace Sys2Proof

/-- Put a code in its place in an ascending list, keeping duplicates (R103: unsigned order). -/
def insertCode (c : Word) : List Word → List Word
  | [] => [c]
  | d :: ds => if c ≤ d then c :: d :: ds else d :: insertCode c ds

/-- The codes in ascending unsigned order, duplicates kept (R102, R103; the algorithm cannot be
observed). -/
def sortCodes : List Word → List Word
  | [] => []
  | c :: cs => insertCode c (sortCodes cs)

/-- One past a code, in 65 bits, so that it never wraps (R100, R102). -/
def onePast (c : Word) : Hi := c.setWidth 65 + 1#65

/-- The scan of R102 over the rest of the sorted codes, with `[lo, hi)` the open interval: a duplicate
of the last code absorbed is skipped (R101), the code `hi` extends the interval, a greater code closes
it and opens the next.  The output is append-only (R107). -/
def scanCodes (lo : Word) (hi : Hi) : List Word → List Interval
  | [] => [⟨lo, hi⟩]
  | c :: cs =>
    if onePast c = hi then scanCodes lo hi cs
    else if c.setWidth 65 = hi then scanCodes lo (hi + 1#65) cs
    else ⟨lo, hi⟩ :: scanCodes c (onePast c) cs

/-- The intervals of a list of codes (R102): none for no code, which COALESCE never has. -/
def coalesceCodes (codes : List Word) : List Interval :=
  match sortCodes codes with
  | [] => []
  | c :: cs => scanCodes c (onePast c) cs

namespace Machine

/-- COALESCE's response (R102): the intervals of the nine operand words. -/
def coalesceResponse (q : Request) : Response := .ofIntervals (coalesceCodes q.a.toList)

/-- COALESCE (R102); `step` and `dirf` are ignored (R55). -/
def execCoalesce (_step : StepField) (_dirf : DirField) (s : State) :
    Host.Outcome State Fault Refusal :=
  s.answer coalesceResponse

end Machine
end Sys2Proof
end

