-- ==== Sys2Proof/Machine/Operands.lean ====
section
/-! DEFINITION. Operand forms: the precision (R49), the masks of a precision (R15), the interleaver
functions `IL` and `DL` (R16, R63, R64), and coordinate words as binary64 numbers (R17, R75). -/

namespace Sys2Proof

/-- `STEP_MIN <= step <= STEP_MAX` (R8, R49, R110). -/
def precisionLegal (step : StepField) : Bool :=
  decide (Config.stepMin ≤ step.toNat) && decide (step.toNat ≤ Config.stepMax)

/-- `ACTIVE(step) = 2^(2*step) - 1`, the low `2*step` bits (R15). -/
def active (step : Nat) : Word := BitVec.ofNat 64 (2 ^ (2 * step) - 1)

/-- The sum of `2^(2i)` over `i < step` (R15). -/
def evenSum : Nat → Nat
  | 0 => 0
  | n + 1 => evenSum n + 2 ^ (2 * n)

/-- `LATMASK(step)`, the even positions among the active bits (R15). -/
def latMask (step : Nat) : Word := BitVec.ofNat 64 (evenSum step)

/-- `LONMASK(step)`, the odd positions among the active bits (R15). -/
def lonMask (step : Nat) : Word := BitVec.ofNat 64 (2 * evenSum step)

/-- A code operand with the bits at position `2*step` and above cleared (R81, R88). -/
def maskCode (code : Word) (step : Nat) : Word := code &&& active step

/-- `IL(x, y)` (R16, R63): bit `2i` is `x[i]`, bit `2i + 1` is `y[i]`. -/
def il (x y : Index) : Word :=
  BitVec.ofFnLE fun j : Fin 64 =>
    if j.val % 2 = 0 then x.getLsbD (j.val / 2) else y.getLsbD (j.val / 2)

/-- The bits `2i + k` of a word, `i` from 0 to 31: one component of `DL` (R64). -/
def component (k : Nat) (v : Word) : Index :=
  BitVec.ofFnLE fun i : Fin 32 => v.getLsbD (2 * i.val + k)

/-- `DL(v)` (R16, R64): `x[i] = v[2i]`, `y[i] = v[2i + 1]`. -/
def dl (v : Word) : Index × Index := (component 0 v, component 1 v)

/-- The classes of a binary64 word (R17). -/
inductive F64Class where
  /-- The exponent field is 2047 and the fraction is not 0. -/
  | nan
  /-- The exponent field is 2047 and the fraction is 0. -/
  | inf
  /-- Every other word. -/
  | finite
  deriving DecidableEq, Repr

/-- The sign bit of a binary64 word (R17). -/
def f64Sign (b : Word) : Bool := b.getLsbD 63

/-- The exponent field `b[62:52]` of a binary64 word (R17). -/
def f64Exp (b : Word) : Nat := (b.extractLsb' 52 11).toNat

/-- The fraction field `b[51:0]` of a binary64 word (R17). -/
def f64Frac (b : Word) : Nat := (b.extractLsb' 0 52).toNat

/-- `f64class(b)` (R17). -/
def f64Class (b : Word) : F64Class :=
  if f64Exp b = 2047 then (if f64Frac b = 0 then .inf else .nan) else .finite

/-- The magnitude of a finite binary64 in units of `2^(-1074)` (R17): `m` for a subnormal, else
`(2^52 + m) * 2^(e - 1)`. -/
def f64Units (b : Word) : Nat :=
  if f64Exp b = 0 then f64Frac b else (2 ^ 52 + f64Frac b) * 2 ^ (f64Exp b - 1)

/-- `f64val(b)`, the exact rational value of a finite binary64 word (R17). -/
def f64Val (b : Word) : ℚ :=
  let mag : ℚ := (f64Units b : ℚ) / (2 ^ 1074 : ℕ)
  if f64Sign b then -mag else mag

/-- The binary64 word of sign `s` whose magnitude is `n` units of `2^(-1074)`. -/
def f64OfUnits (s : Bool) (n : Nat) : Word :=
  let k := Nat.log2 n
  let body := if k < 52 then n else (k - 51) * 2 ^ 52 + (n / 2 ^ (k - 52) - 2 ^ 52)
  BitVec.ofNat 64 ((if s then 2 ^ 63 else 0) + body)

/-- `f64enc(q)` (R17), for a rational that some finite binary64 represents exactly: the word with that
value, with sign 0 when `q = 0`. -/
def f64Enc (q : ℚ) : Word :=
  f64OfUnits (decide (q < 0)) (q.num.natAbs * 2 ^ 1074 / q.den)

/-- The domain check of one coordinate word (R75): a finite binary64 whose exact value lies in the
closed interval of its axis. -/
def inDomain (ax : Axis) (b : Word) : Bool :=
  match f64Class b with
  | .finite => decide (Config.axisMin ax ≤ f64Val b) && decide (f64Val b ≤ Config.axisMax ax)
  | _ => false

end Sys2Proof
end

