-- ==== Sys2Proof/Machine/Flags.lean ====
section
/-! DEFINITION. The status bits of a response (R111) and when each is raised (R110, R112, R113). -/

namespace Sys2Proof

/-- `status[0]`, `OUT_OF_RANGE` (R111). -/
def outOfRange : BitVec 3 := 0b001#3

/-- `status[1]`, `UNSUPPORTED_PRECISION` (R111). -/
def unsupportedPrecision : BitVec 3 := 0b010#3

/-- `status[2]`, `ILLEGAL_OP` (R111). -/
def illegalOp : BitVec 3 := 0b100#3

/-- The bit `UnsupportedPrecision` of an operation that takes a precision: raised exactly when `step`
is 0 or above 32 (R49, R110). -/
def precisionFlag (step : StepField) : BitVec 3 :=
  if precisionLegal step then 0#3 else unsupportedPrecision

/-- The bit `OutOfRange` of ENCODE: raised exactly when one of the two coordinate words is not a finite
binary64 in its axis's closed interval (R75, R112). -/
def domainFlag (latWord lonWord : Word) : BitVec 3 :=
  if inDomain .lat latWord && inDomain .lon lonWord then 0#3 else outOfRange

/-- Both checks of ENCODE, always made, their bits accumulated (R74, R114). -/
def encodeFlags (step : StepField) (latWord lonWord : Word) : BitVec 3 :=
  domainFlag latWord lonWord ||| precisionFlag step

end Sys2Proof
end

