-- ==== Sys2Proof/Machine/Codec.lean ====
section
/-! DEFINITION. Family 2, the cell codec and its quantizer: ENCODE and DECODE (R71 to R86). -/

namespace Sys2Proof

/-- `QUANT(q, axis, step)` (R71), evaluated exactly on rationals, with the clamp of R72. -/
def quant (q : ℚ) (ax : Axis) (step : Nat) : Nat :=
  min ⌊(q - Config.axisMin ax) / Config.axisRange ax * (2 ^ step : ℕ)⌋.toNat (2 ^ step - 1)

/-- The axis index of a coordinate word, a u32 (R71, R74). -/
def quantWord (b : Word) (ax : Axis) (step : Nat) : Index :=
  BitVec.ofNat 32 (quant (f64Val b) ax step)

/-- `BOUND(i, axis, step) = axisMin + (i / 2^step) * axisRange`, exactly (R78). -/
def bound (i : Nat) (ax : Axis) (step : Nat) : ℚ :=
  Config.axisMin ax + (i : ℚ) / (2 ^ step : ℕ) * Config.axisRange ax

namespace Machine

/-- The cell code of two coordinate words in their domains (R74). -/
def encodeCode (latWord lonWord : Word) (step : Nat) : Word :=
  il (quantWord latWord .lat step) (quantWord lonWord .lon step)

/-- ENCODE's response (R74): both checks, then the cell code. -/
def encodeResponse (step : StepField) (q : Request) : Response :=
  .orRaise (encodeFlags step q.a[0] q.a[1]) (.ofWords [encodeCode q.a[0] q.a[1] step.toNat])

/-- The four bounds of a cell as binary64 words, in the order latMin, latMax, lonMin, lonMax (R79). -/
def cellBounds (code : Word) (step : Nat) : List Word :=
  let (ilat, ilon) := dl (maskCode code step)
  [f64Enc (bound ilat.toNat .lat step), f64Enc (bound (ilat.toNat + 1) .lat step),
   f64Enc (bound ilon.toNat .lon step), f64Enc (bound (ilon.toNat + 1) .lon step)]

/-- DECODE's response (R79): the precision check, then the four bounds of the cell. -/
def decodeResponse (step : StepField) (q : Request) : Response :=
  .orRaise (precisionFlag step) (.ofWords (cellBounds q.a[0] step.toNat))

/-- ENCODE (R74); `dirf` is ignored (R55). -/
def execEncode (step : StepField) (_dirf : DirField) (s : State) :
    Host.Outcome State Fault Refusal :=
  s.answer (encodeResponse step)

/-- DECODE (R79); `dirf` is ignored (R55). -/
def execDecode (step : StepField) (_dirf : DirField) (s : State) :
    Host.Outcome State Fault Refusal :=
  s.answer (decodeResponse step)

end Machine
end Sys2Proof
end

