-- ==== Sys2Proof/Machine/Interleaver.lean ====
section
/-! DEFINITION. Family 1, the bit interleaver: INTERLEAVE and DEINTERLEAVE (R65, R66). -/

namespace Sys2Proof.Machine

/-- INTERLEAVE's response (R65): `IL` of the low 32 bits of `a[0]` and `a[1]`. -/
def interleaveResponse (q : Request) : Response :=
  .ofWords [il (q.a[0].setWidth 32) (q.a[1].setWidth 32)]

/-- DEINTERLEAVE's response (R66): the two components of `DL(a[0])`, zero-extended. -/
def deinterleaveResponse (q : Request) : Response :=
  let (x, y) := dl q.a[0]
  .ofWords [x.setWidth 64, y.setWidth 64]

/-- INTERLEAVE (R65); `step` and `dirf` are ignored (R55). -/
def execInterleave (_step : StepField) (_dirf : DirField) (s : State) :
    Host.Outcome State Fault Refusal :=
  s.answer interleaveResponse

/-- DEINTERLEAVE (R66); `step` and `dirf` are ignored (R55). -/
def execDeinterleave (_step : StepField) (_dirf : DirField) (s : State) :
    Host.Outcome State Fault Refusal :=
  s.answer deinterleaveResponse

end Sys2Proof.Machine
end

