-- ==== Sys2Proof/Machine/Neighbor.lean ====
section
/-! DEFINITION. Family 3, the neighbour cell engine: MOVE_LAT, MOVE_LON and NEIGHBORS (R87 to R99). -/

namespace Sys2Proof

/-- The signed step of a direction (R50). -/
def Direction.toInt : Direction → Int
  | .stay => 0
  | .plus => 1
  | .minus => -1

/-- `(p + d) mod 2^step` on one axis index, wrapping at the grid edge (R87, R92, R137). -/
def moveIndex (p : Index) (d : Direction) (step : Nat) : Index :=
  BitVec.ofInt 32 (((p.toNat : Int) + d.toInt) % ((2 ^ step : Nat) : Int))

/-- `MOVE(c, axis, d, step)` on a canonical code: one axis index moves, the other is untouched (R87). -/
def move (c : Word) (ax : Axis) (d : Direction) (step : Nat) : Word :=
  let (p, q) := dl c
  match ax with
  | .lat => il (moveIndex p d step) q
  | .lon => il p (moveIndex q d step)

/-- The nine codes around a canonical code, in the order N, NE, E, SE, S, SW, W, NW, C, each by the
composition R93 lists; duplicates are kept (R99). -/
def neighborCodes (c : Word) (step : Nat) : List Word :=
  let n := move c .lat .plus step
  let e := move c .lon .plus step
  let s := move c .lat .minus step
  let w := move c .lon .minus step
  [n, move n .lon .plus step, e, move e .lat .minus step, s, move s .lon .minus step, w,
   move w .lat .plus step, c]

namespace Machine

/-- The response of a MOVE (R90, R91): the precision check, then the move of the masked operand
(R88). -/
def moveResponse (ax : Axis) (d : Direction) (step : StepField) (q : Request) : Response :=
  .orRaise (precisionFlag step) (.ofWords [move (maskCode q.a[0] step.toNat) ax d step.toNat])

/-- NEIGHBORS's response (R93): the precision check, then the nine codes around the masked operand. -/
def neighborsResponse (step : StepField) (q : Request) : Response :=
  .orRaise (precisionFlag step) (.ofWords (neighborCodes (maskCode q.a[0] step.toNat) step.toNat))

/-- MOVE_LAT with `dir = 0` (R90, R89). -/
def execMoveLatStay (step : StepField) (s : State) : Host.Outcome State Fault Refusal :=
  s.answer (moveResponse .lat .stay step)

/-- MOVE_LAT with `dir = +1`: one cell north (R90). -/
def execMoveLatNorth (step : StepField) (s : State) : Host.Outcome State Fault Refusal :=
  s.answer (moveResponse .lat .plus step)

/-- MOVE_LAT with `dir = -1`: one cell south (R90). -/
def execMoveLatSouth (step : StepField) (s : State) : Host.Outcome State Fault Refusal :=
  s.answer (moveResponse .lat .minus step)

/-- MOVE_LON with `dir = 0` (R91, R89). -/
def execMoveLonStay (step : StepField) (s : State) : Host.Outcome State Fault Refusal :=
  s.answer (moveResponse .lon .stay step)

/-- MOVE_LON with `dir = +1`: one cell east (R91). -/
def execMoveLonEast (step : StepField) (s : State) : Host.Outcome State Fault Refusal :=
  s.answer (moveResponse .lon .plus step)

/-- MOVE_LON with `dir = -1`: one cell west (R91). -/
def execMoveLonWest (step : StepField) (s : State) : Host.Outcome State Fault Refusal :=
  s.answer (moveResponse .lon .minus step)

/-- NEIGHBORS (R93); `dirf` is ignored (R55). -/
def execNeighbors (step : StepField) (_dirf : DirField) (s : State) :
    Host.Outcome State Fault Refusal :=
  s.answer (neighborsResponse step)

end Machine
end Sys2Proof
end

