-- ==== Sys2Proof/Machine/Dispatch.lean ====
section
/-! DEFINITION. The one dispatch of an operation to its meaning (R48). -/

namespace Sys2Proof.Machine

def exec (i : Instr) (s : State) : Host.Outcome State Fault Refusal :=
  match i with
  | .interleave step dirf => Sys2Proof.Machine.execInterleave step dirf s
  | .deinterleave step dirf => Sys2Proof.Machine.execDeinterleave step dirf s
  | .encode step dirf => Sys2Proof.Machine.execEncode step dirf s
  | .decode step dirf => Sys2Proof.Machine.execDecode step dirf s
  | .moveLatStay step => Sys2Proof.Machine.execMoveLatStay step s
  | .moveLatNorth step => Sys2Proof.Machine.execMoveLatNorth step s
  | .moveLatSouth step => Sys2Proof.Machine.execMoveLatSouth step s
  | .moveLonStay step => Sys2Proof.Machine.execMoveLonStay step s
  | .moveLonEast step => Sys2Proof.Machine.execMoveLonEast step s
  | .moveLonWest step => Sys2Proof.Machine.execMoveLonWest step s
  | .neighbors step dirf => Sys2Proof.Machine.execNeighbors step dirf s
  | .coalesce step dirf => Sys2Proof.Machine.execCoalesce step dirf s

end Sys2Proof.Machine
end

