-- ==== Sys2Proof/Machine/Step.lean ====
section
/-! DEFINITION. One step of the machine: one rising edge of `clk` (R28, R125, R134). -/

namespace Sys2Proof.Machine

/-- The block executes a request of its queue (R134): an illegal control word is answered with
`IllegalOp` alone (R54, R114), any other by its operation. -/
def runRequest (q : Request) (s : State) : Host.Outcome State Fault Refusal :=
  match decodeCtl q.ctl with
  | .error _ => s.answer fun _ => .raised illegalOp
  | .ok i => exec i s

/-- One rising edge of `clk`.  With `rst = 1`, reset (R125).  Otherwise the ports' events (R28), then
the block's own step if the oldest accepted request is due (R134), then the registered outputs. -/
def step (s : State) : Host.Outcome State Fault Refusal :=
  if s.pins.rst then .next s.resetEdge
  else
    match s.portEvents.due with
    | none => .next s.portEvents.endEdge
    | some q => mapNext State.endEdge (runRequest q s.portEvents)

/-- The state with the request whose bits are `w` (of which the low `nbits` count) accepted, oldest in
the queue and due, and with nothing driven by the host at the next edge: `step` then runs exactly that
request.  It stands for the host's acceptance handshake (log entry 9). -/
def State.withFetchWord (s : State) (nbits w : Nat) : State :=
  { s with
    pending := ⟨Request.ofBits (w % 2 ^ nbits), 0⟩ :: s.pending
    host := Pins.idle :: s.host }

end Sys2Proof.Machine
end

