-- ==== Sys2Proof/Machine/Datapath.lean ====
section
/-! DEFINITION. The realisations the spec gives beside its defining rules: the spread and compact
networks (R68, R69), the integer-only quantizer (R73) and the mask datapath of a move (R96).  They are
informative: where one differed from the rule it realises, the rule would govern. -/

namespace Sys2Proof

/-- `SPREAD(t)` (R68): bit `i` of `t` goes to bit `2i`. -/
def spread (t : Index) : Word :=
  let w0 : Word := t.setWidth 64
  let w1 := (w0 ||| (w0 <<< 16)) &&& 0x0000FFFF0000FFFF#64
  let w2 := (w1 ||| (w1 <<< 8)) &&& 0x00FF00FF00FF00FF#64
  let w3 := (w2 ||| (w2 <<< 4)) &&& 0x0F0F0F0F0F0F0F0F#64
  let w4 := (w3 ||| (w3 <<< 2)) &&& 0x3333333333333333#64
  (w4 ||| (w4 <<< 1)) &&& 0x5555555555555555#64

/-- `COMPACT(w)` (R69): bit `2i` of `w` goes to bit `i`. -/
def compact (w : Word) : Index :=
  let w0 := w &&& 0x5555555555555555#64
  let w1 := (w0 ||| (w0 >>> 1)) &&& 0x3333333333333333#64
  let w2 := (w1 ||| (w1 >>> 2)) &&& 0x0F0F0F0F0F0F0F0F#64
  let w3 := (w2 ||| (w2 >>> 4)) &&& 0x00FF00FF00FF00FF#64
  let w4 := (w3 ||| (w3 >>> 8)) &&& 0x0000FFFF0000FFFF#64
  ((w4 ||| (w4 >>> 16)) &&& 0x00000000FFFFFFFF#64).setWidth 32

/-- The spread form of `IL` (R68). -/
def ilSpread (x y : Index) : Word := spread x ||| (spread y <<< 1)

/-- The compact form of `DL` (R69). -/
def dlCompact (v : Word) : Index × Index := (compact v, compact (v >>> 1))

/-- `FLOORSCALE(b, sh) = floor(f64val(b) * 2^sh)` for a finite `b`, on integers only (R73). -/
def floorScale (b : Word) (sh : Nat) : Int :=
  let sig := if f64Exp b = 0 then f64Frac b else 2 ^ 52 + f64Frac b
  let ex : Int := if f64Exp b = 0 then -1074 else (f64Exp b : Int) - 1075
  let k : Int := ex + sh
  let mag := if 0 ≤ k then sig <<< k.toNat else sig >>> (-k).toNat
  let rem := if 0 ≤ k then false else decide (sig % 2 ^ (-k).toNat ≠ 0)
  if f64Sign b then -((mag : Int) + (if rem then 1 else 0)) else mag

/-- The scale `sh` of R73: latitude is significant to `2^-30` degree, longitude to `2^-29`. -/
def quantShift : Axis → Nat
  | .lat => 30
  | .lon => 29

/-- The integer-only form of the quantizer (R73): `min(N div D, 2^step - 1)`. -/
def quantInt (b : Word) (ax : Axis) (step : Nat) : Nat :=
  let n : Int := floorScale b (quantShift ax) + 90 * 2 ^ 30
  let d : Int := 45 * 2 ^ (32 - step)
  min (n / d).toNat (2 ^ step - 1)

/-- The mask of an axis's own bits (R15, R18). -/
def ownMask : Axis → Nat → Word
  | .lat, n => latMask n
  | .lon, n => lonMask n

/-- The mask of the other axis's bits (R15, R96). -/
def otherMask : Axis → Nat → Word
  | .lat, n => lonMask n
  | .lon, n => latMask n

/-- The carry-propagating realisation of a move, with no de-interleave (R96). -/
def moveMasked (c : Word) (ax : Axis) (d : Direction) (step : Nat) : Word :=
  let own := ownMask ax step
  let oth := otherMask ax step
  let a := c &&& own
  let a' := match d with
    | .plus => (a + oth + 1#64) &&& own
    | .minus => ((a ||| oth) - (oth + 1#64)) &&& own
    | .stay => a
  a' ||| (c &&& oth)

end Sys2Proof
end

