-- ==== Sys2Proof/Machine/Transaction.lean ====
section
/-! DEFINITION. The block at transaction level: the response to a request as a function of it (R19,
R134), requests as a host builds them (R47, R60), and the pseudo-operations a host expands (R59). -/

namespace Sys2Proof.Machine

/-- `exec(request)` of R19: what the block answers a request with, read off a run of it alone. -/
def respond (q : Request) : Response :=
  match runRequest q { State.reset with pending := [⟨q, 0⟩] } with
  | .next t => t.ready.headD .zero
  | _ => .zero

/-- A run as R134 collapses it: the pairs of a request and its response, in issue order. -/
def transcript (qs : List Request) : List (Request × Response) := qs.map fun q => (q, respond q)

/-- The request a host builds for an operation from its first operand words (R20, R60).  DESIGN CHOICE
(log entry 22): the operand words past those given are zero, where "unused words may hold anything"
(spec/95_test_vectors.md, section 3). -/
def requestOf (i : Instr) (ws : List Word) : Request := ⟨encodeCtl i, vec9 0#64 ws⟩

/-- One transaction of a pseudo-operation, and what follows it when its `status` is `000`: "A
pseudo-operation stops at the first response whose `status` is not `000`" (R59). -/
def chain (q : Request) (more : Response → List (Request × Response)) :
    List (Request × Response) :=
  (q, respond q) :: if (respond q).status = 0#3 then more (respond q) else []

/-- `MOVE_N c, step` (R59). -/
def pseudoMoveN (code : Word) (step : StepField) : List (Request × Response) :=
  chain (requestOf (.moveLatNorth step) [code]) fun _ => []

/-- `MOVE_S c, step` (R59). -/
def pseudoMoveS (code : Word) (step : StepField) : List (Request × Response) :=
  chain (requestOf (.moveLatSouth step) [code]) fun _ => []

/-- `MOVE_E c, step` (R59). -/
def pseudoMoveE (code : Word) (step : StepField) : List (Request × Response) :=
  chain (requestOf (.moveLonEast step) [code]) fun _ => []

/-- `MOVE_W c, step` (R59). -/
def pseudoMoveW (code : Word) (step : StepField) : List (Request × Response) :=
  chain (requestOf (.moveLonWest step) [code]) fun _ => []

/-- `NRANGES c, step` (R59): NEIGHBORS, then COALESCE of its nine result words (R108).  DESIGN CHOICE
(log entry 22): the fields the two operations ignore are zero. -/
def pseudoNRanges (code : Word) (step : StepField) : List (Request × Response) :=
  chain (requestOf (.neighbors step 0#2) [code]) fun x =>
    chain (requestOf (.coalesce 0#8 0#2) x.r.toList) fun _ => []

/-- `QUERY lat, lon, step` (R59): ENCODE, then NRANGES of its code.  DESIGN CHOICE (log entry 22): the
field ENCODE ignores is zero. -/
def pseudoQuery (latWord lonWord : Word) (step : StepField) : List (Request × Response) :=
  chain (requestOf (.encode step 0#2) [latWord, lonWord]) fun x => pseudoNRanges x.r[0] step

/-- The status a pseudo-operation reports: that of its last transaction (R59). -/
def pseudoStatus (ts : List (Request × Response)) : BitVec 3 :=
  match ts.getLast? with
  | some t => t.2.status
  | none => 0#3

end Sys2Proof.Machine
end

