-- ==== Sys2Proof/WellFormed.lean ====
section
/-! DEFINITION. When an operation and a response have the form the spec gives them. -/

namespace Sys2Proof

/-- An operation is well formed when its control word matches its own row of the table of R57.  The
fields of `Instr` have the widths of R47, so no term of the type fails this: there is no ill-formed
operation, only an illegal control word, which the decoder rejects (R54). -/
def Instr.wellFormed (i : Instr) : Bool :=
  opcodeTable.any fun row => row.mnemonic == i.mnemonic && row.matches (encodeCtl i)

/-- The `status` values that can occur (R111, R114): `000`, `001`, `010`, `011`, `100`. -/
def Response.statusLegal (x : Response) : Bool := x.status.toNat ≤ 4

/-- `count` is 0 to 9 (R21), and 0 exactly when `status` is not `000` (R52, R116). -/
def Response.countLegal (x : Response) : Bool :=
  x.count.toNat ≤ 9 && ((x.count == 0#4) == !(x.status == 0#3))

/-- Result words and upper bounds from position `count` on are zero (R22). -/
def Response.tailZero (x : Response) : Bool :=
  (List.finRange 9).all fun k => k.val < x.count.toNat || (x.r[k] == 0#64 && x.h[k] == 0#65)

/-- A response as the block answers one (R21, R22, R111, R116). -/
def Response.wellFormed (x : Response) : Bool :=
  x.statusLegal && x.countLegal && x.tailZero

end Sys2Proof
end

