-- ==== Sys2Proof/Safety.lean ====
section
/-! DEFINITION. The terms claims are made in: what the state satisfies at every clock edge, what an
answered request leaves, when a code is canonical, what a cell and an interval hold, and what a host
that keeps the handshake drives. -/

namespace Sys2Proof

/-- A code with no bit at position `2*step` or above (the glossary's "canonical at `step`"). -/
def canonical (c : Word) (step : Nat) : Prop := c.toNat < 2 ^ (2 * step)

/-- A precision the spec supports (R8, R110). -/
def legalStep (step : StepField) : Prop := 1 ≤ step.toNat ∧ step.toNat ≤ 32

/-- A coordinate word that names a value of its axis's closed domain (R75). -/
def legalCoordinate (ax : Axis) (b : Word) : Prop :=
  f64Class b = .finite ∧ Config.axisMin ax ≤ f64Val b ∧ f64Val b ≤ Config.axisMax ax

/-- The cell of axis index `i` holds the value `q` (R76): from its lower bound up to but not including
its upper bound, and the axis's maximum in the last cell. -/
def inCell (q : ℚ) (ax : Axis) (step i : Nat) : Prop :=
  i < 2 ^ step ∧ bound i ax step ≤ q ∧
    (q < bound (i + 1) ax step ∨ (q = Config.axisMax ax ∧ i + 1 = 2 ^ step))

/-- The integer `c` lies in the interval `[lo, hi)` (R45, R100). -/
def Interval.holds (iv : Interval) (c : Nat) : Prop := iv.lo.toNat ≤ c ∧ c < iv.hi.toNat

/-- A control word that selects no operation, by the three causes of R54. -/
def illegalCtl (c : Ctl) : Prop :=
  8 ≤ (opField c).toNat ∨ rsvField c ≠ 0b00#2 ∨
    ((opField c = 4#4 ∨ opField c = 5#4) ∧ dirField c = 0b10#2)

/-- The operations that take a precision (R49). -/
def Instr.precision : Instr → Option StepField
  | .interleave _ _ => none
  | .deinterleave _ _ => none
  | .encode step _ => some step
  | .decode step _ => some step
  | .moveLatStay step => some step
  | .moveLatNorth step => some step
  | .moveLatSouth step => some step
  | .moveLonStay step => some step
  | .moveLonEast step => some step
  | .moveLonWest step => some step
  | .neighbors step _ => some step
  | .coalesce _ _ => none

/-- The operations that read coordinates (R51): ENCODE alone. -/
def Instr.readsCoordinates : Instr → Bool
  | .encode _ _ => true
  | _ => false

namespace Machine

/-- The state an answer to the oldest request leaves: `rest` still pending, the response last in
`ready`, and every other field as it was (R19, R34, R118). -/
def State.afterAnswer (s : State) (rest : List Pending) (x : Response) : State :=
  { s with pending := rest, ready := s.ready ++ [x] }

/-- The ports and the queue agree: `rsp_valid` is 1 exactly while a computed response waits, the queue
holds at most `DEPTH` requests (R28), and `req_ready` is 1 only while it holds fewer.  Two parts are the
model's choice: that `rsp_valid` is never 0 while a computed response waits (log entry 24), and the last
clause (log entry 10), since R128 would let `req_ready` follow `rsp_ready` on a full queue. -/
def State.interfaceOk (s : State) : Prop :=
  (s.rspValid = true ↔ s.ready ≠ []) ∧ s.inFlight ≤ Config.depth ∧
    (s.reqReady = true → s.inFlight < Config.depth)

/-- Every response in the queue or taken has the form of a response (R21, R22, R111, R116). -/
def State.responsesOk (s : State) : Prop :=
  (∀ x ∈ s.ready, x.wellFormed = true) ∧ (∀ x ∈ s.taken, x.wellFormed = true)

/-- The run's record is in order (R37, R38, R126): the responses taken, then those waiting, then those
to come are the responses to the accepted requests, one each, in the order of acceptance.  That requests
dropped by a reset leave `accepted` is the model's choice (log entry 18). -/
def State.recordOk (s : State) : Prop :=
  s.accepted.map respond = s.taken ++ s.ready ++ s.pending.map fun p => respond p.req

/-- The host keeps the request channel's discipline at the next edge (R128): a request presented and
not accepted is presented again, unchanged.  DESIGN CHOICE (log entry 21): an edge with `rst = 1` is
exempt.  R128 and R136 say "until accepted" and name no exemption; the predicate asks nothing of the host
across a reset edge, so a claim that takes it as a premise holds of more hosts. -/
def State.hostKeepsRequest (s : State) : Prop :=
  s.pins.rst = false → s.pins.reqValid = true → s.reqReady = false →
    ∃ p rest, s.host.tail = p :: rest ∧ p.reqValid = true ∧ p.req = s.pins.req

/-- What the host drives at an edge where it neither resets nor leaves a response waiting (R130). -/
def Pins.takesResponses (p : Pins) : Prop := p.rst = false ∧ p.rspReady = true

/-- What the host drives at an edge where it neither resets nor presents a request. -/
def Pins.offersNothing (p : Pins) : Prop := p.rst = false ∧ p.reqValid = false

end Machine
end Sys2Proof
end

