-- ==== Sys2Proof/Certificates/Slice0/Obligations.lean ====
section
/-! DEFINITION. The statements for the provers.  Where a statement says `exec i s = .next (s.afterAnswer
rest x)`, it says the whole next state: `State.afterAnswer` writes `pending` and `ready` and leaves
every other field of the state as it was, so the frame is part of the equation. -/

open Sys2Proof Sys2Proof.Machine

/-- No upper bound written: `h[0..8]` of every operation but COALESCE (R22). -/
def noBounds : Vector Hi 9 := #v[0, 0, 0, 0, 0, 0, 0, 0, 0]

/-- The index pair `(p, q)` moved by `(i, j)`, each modulo `2^step` (R87, R93). -/
def shiftedIndices (p q : Index) (i j : Int) (step : Nat) (v : Word) : Prop :=
  ((dl v).1.toNat : Int) = ((p.toNat : Int) + i) % ((2 ^ step : Nat) : Int) ∧
    ((dl v).2.toNat : Int) = ((q.toNat : Int) + j) % ((2 ^ step : Nat) : Int)

/-! ### The control word -/

/-- R47, R48, R50: decoding the control word of an operation gives the operation back, with every
field at every value. -/
def Obligations.DecodeAfterEncodeIsIdentity : Prop :=
  ∀ i : Instr, decodeCtl (encodeCtl i) = .ok i

/-- Of R47's layout: no bit of a legal control word is lost in decoding.  This is the model's choice (log
entry 19): `Instr` carries the fields an operation ignores, where R55 and R60 treat control words that
differ in an ignored field only as one operation. -/
def Obligations.EncodeAfterDecodeIsIdentity : Prop :=
  ∀ (c : Ctl) (i : Instr), decodeCtl c = .ok i → encodeCtl i = c

/-- R57: the complete table, as match and mask; the decoder selects the operation of the row a control
word matches and none where it matches no row, and the rows are disjoint. -/
def Obligations.DecoderIsTheOpcodeTable : Prop :=
  (∀ (c : Ctl) (row : OpcodeRow), row ∈ opcodeTable →
    (row.matches c = true ↔ ∃ i, decodeCtl c = .ok i ∧ i.mnemonic = row.mnemonic)) ∧
  (∀ c : Ctl, (∀ row ∈ opcodeTable, row.matches c = false) → ∃ e, decodeCtl c = .error e) ∧
  opcodeTable.Pairwise (fun a b => ∀ c : Ctl, ¬ (a.matches c = true ∧ b.matches c = true))

/-- R60: the control words the spec builds by hand, in both directions. -/
def Obligations.WorkedControlWords : Prop :=
  encodeCtl (.encode 10 0) = 0x0A02#16 ∧ decodeCtl 0x0A02#16 = .ok (.encode 10 0) ∧
  encodeCtl (.decode 10 0) = 0x0A03#16 ∧ decodeCtl 0x0A03#16 = .ok (.decode 10 0) ∧
  encodeCtl (.moveLatNorth 10) = 0x0A14#16 ∧ decodeCtl 0x0A14#16 = .ok (.moveLatNorth 10) ∧
  encodeCtl (.moveLatSouth 10) = 0x0A34#16 ∧ decodeCtl 0x0A34#16 = .ok (.moveLatSouth 10) ∧
  encodeCtl (.moveLonEast 5) = 0x0515#16 ∧ decodeCtl 0x0515#16 = .ok (.moveLonEast 5) ∧
  encodeCtl (.neighbors 32 0) = 0x2006#16 ∧ decodeCtl 0x2006#16 = .ok (.neighbors 32 0) ∧
  encodeCtl (.coalesce 0 0) = 0x0007#16 ∧
  (∀ (x : StepField) (d : DirField), decodeCtl (ctlOf 7#4 d x) = .ok (.coalesce x d)) ∧
  decodeCtl 0x0008#16 = .error .reservedOp ∧ decodeCtl 0x0040#16 = .error .reservedBits ∧
  decodeCtl 0x0A24#16 = .error .reservedDirection

/-- R113, R54: the oldest request is answered with `IllegalOp` exactly when its control word has
`op >= 8`, or `rsv` not `00`, or `dirf = 10` on a MOVE; and then that bit stands alone, with no result. -/
def Obligations.IllegalOpRaisedExactly : Prop :=
  ∀ (s : State) (p : Pending) (rest : List Pending), s.pending = p :: rest →
    ∃ x, runRequest p.req s = .next (s.afterAnswer rest x) ∧
      (x.status.getLsbD 2 = true ↔ illegalCtl p.req.ctl) ∧
      (illegalCtl p.req.ctl →
        x = ⟨0b100#3, 0#4, #v[0, 0, 0, 0, 0, 0, 0, 0, 0], noBounds⟩)

/-- R55: a field an operation does not use has no effect on the response; `rsv` is the one field that is
checked. -/
def Obligations.IgnoredFieldsHaveNoEffect : Prop :=
  ∀ q q' : Request,
    (∀ (x x' : StepField) (d d' : DirField), decodeCtl q.ctl = .ok (.interleave x d) →
      decodeCtl q'.ctl = .ok (.interleave x' d') →
      q.a[0].setWidth 32 = q'.a[0].setWidth 32 → q.a[1].setWidth 32 = q'.a[1].setWidth 32 →
      respond q = respond q') ∧
    (∀ (x x' : StepField) (d d' : DirField), decodeCtl q.ctl = .ok (.deinterleave x d) →
      decodeCtl q'.ctl = .ok (.deinterleave x' d') → q.a[0] = q'.a[0] → respond q = respond q') ∧
    (∀ (x : StepField) (d d' : DirField), decodeCtl q.ctl = .ok (.encode x d) →
      decodeCtl q'.ctl = .ok (.encode x d') → q.a[0] = q'.a[0] → q.a[1] = q'.a[1] →
      respond q = respond q') ∧
    (∀ (x : StepField) (d d' : DirField), decodeCtl q.ctl = .ok (.decode x d) →
      decodeCtl q'.ctl = .ok (.decode x d') → q.a[0] = q'.a[0] → respond q = respond q') ∧
    (∀ (x : StepField) (i : Instr),
      i ∈ [Instr.moveLatStay x, .moveLatNorth x, .moveLatSouth x, .moveLonStay x, .moveLonEast x,
        .moveLonWest x] →
      decodeCtl q.ctl = .ok i → decodeCtl q'.ctl = .ok i → q.a[0] = q'.a[0] →
      respond q = respond q') ∧
    (∀ (x : StepField) (d d' : DirField), decodeCtl q.ctl = .ok (.neighbors x d) →
      decodeCtl q'.ctl = .ok (.neighbors x d') → q.a[0] = q'.a[0] → respond q = respond q') ∧
    (∀ (x x' : StepField) (d d' : DirField), decodeCtl q.ctl = .ok (.coalesce x d) →
      decodeCtl q'.ctl = .ok (.coalesce x' d') → q.a = q'.a → respond q = respond q') ∧
    (rsvField q.ctl ≠ 0 → ∃ e, decodeCtl q.ctl = .error e)

/-! ### The clock edge, the queue and the run -/

/-- R134, R28: a step executes the operation that the control word of the oldest accepted request
decodes to, by `exec`.  Two things are the model's choice, not the spec's: at which edge a request is due
(log entry 2), and that within one edge the operation comes after the ports' events and before the
registered outputs (log entry 11). -/
def Obligations.StepRunsTheDecodedRequest : Prop :=
  ∀ (s : State) (q : Request) (i : Instr), s.pins.rst = false → s.portEvents.due = some q →
    decodeCtl q.ctl = .ok i → step s = mapNext State.endEdge (exec i s.portEvents)

/-- R54, R116: where the control word of the due request is illegal, the step answers it with
`status = 100` alone and goes on.  The model's choice, not the spec's: at which edge a request is due (log
entry 2), and the order of the events within that edge (log entry 11), which the next state is written
in. -/
def Obligations.StepAnswersAnIllegalRequest : Prop :=
  ∀ (s : State) (p : Pending) (rest : List Pending), s.pins.rst = false →
    s.portEvents.pending = p :: rest → p.wait = 0 → illegalCtl p.req.ctl →
      step s = .next (s.portEvents.afterAnswer rest
        ⟨0b100#3, 0#4, #v[0, 0, 0, 0, 0, 0, 0, 0, 0], noBounds⟩).endEdge

/-- R130: no request and no state makes the block stop: every clock edge has a next state.  The clauses
on `cycle` and `host` are about the model's own fields (log entries 7 and 17). -/
def Obligations.EveryClockEdgeHasANextState : Prop :=
  ∀ s : State, ∃ t, step s = .next t ∧ t.cycle = s.cycle + 1 ∧ t.host = s.host.tail

/-- R125, R126: an edge with `rst = 1` empties the queue, drives `rsp_valid = 0`, accepts nothing and
takes nothing.  The last clause is the model's choice (log entry 18): what was in flight leaves the
model's own record of accepted requests. -/
def Obligations.ResetEdgeEmptiesTheQueue : Prop :=
  ∀ s : State, s.pins.rst = true → ∃ t, step s = .next t ∧ t.pending = [] ∧ t.ready = [] ∧
    t.rspValid = false ∧ t.taken = s.taken ∧ t.accepted = s.accepted.take s.taken.length

/-- R30: what the spec says the machine is right after reset. -/
def Obligations.ResetStateIsEmpty : Prop :=
  State.reset.pending = [] ∧ State.reset.ready = [] ∧ State.reset.rspValid = false

/-- R28: at an edge without reset a request is accepted exactly when `req_valid = 1` and
`req_ready = 1`, a response is taken exactly when `rsp_valid = 1` and `rsp_ready = 1`, and each joins
its record last. -/
def Obligations.TransfersFollowTheHandshake : Prop :=
  ∀ s t : State, s.pins.rst = false → step s = .next t →
    t.accepted = s.accepted ++
      (if s.pins.reqValid = true ∧ s.reqReady = true then [s.pins.req] else []) ∧
    t.taken = s.taken ++
      (if s.rspValid = true ∧ s.pins.rspReady = true then s.ready.take 1 else [])

/-- R128: a response presented and not taken stays on the response wires, unchanged. -/
def Obligations.ResponseHeldUntilTaken : Prop :=
  ∀ s : State, s.rspValid = true → s.ready ≠ [] → s.pins.rst = false → s.pins.rspReady = false →
    ∃ t, step s = .next t ∧ t.rspValid = true ∧ t.rspPayload = s.rspPayload

/-- R128: while the host keeps the request channel's discipline, a request presented and not accepted
is still presented, unchanged, at the next edge. -/
def Obligations.RequestOfferedUntilAccepted : Prop :=
  ∀ s t : State, s.hostKeepsRequest → s.pins.rst = false → s.pins.reqValid = true →
    s.reqReady = false → step s = .next t →
      t.accepted = s.accepted ∧ t.pins.reqValid = true ∧ t.pins.req = s.pins.req

/-- R28, R128: every step keeps the ports and the queue in agreement; in particular the queue never
holds more than `DEPTH` requests.  Two parts of `interfaceOk` are the model's choice, not the spec's: that
`rsp_valid` is never 0 while a computed response waits (log entry 24), and that `req_ready` is 1 only
while fewer than `DEPTH` requests are held (log entry 10), where R128 would let it follow `rsp_ready` on a
full queue. -/
def Obligations.StepKeepsTheInterfaceInvariant : Prop :=
  ∀ s t : State, s.interfaceOk → step s = .next t → t.interfaceOk

/-- R28, R30: the reset state has its ports and queue in agreement.  The clause of `interfaceOk` on
`req_ready` is the model's choice (log entry 10), and so is that `rsp_valid` is never 0 while a computed
response waits (log entry 24). -/
def Obligations.ResetMeetsTheInterfaceInvariant : Prop := State.reset.interfaceOk

/-- R21, R22, R111, R114, R116: every step keeps every response well formed: a status among `000`,
`001`, `010`, `011`, `100`, a count of 0 exactly on an error, and zero in every word from `count` on. -/
def Obligations.StepKeepsResponsesWellFormed : Prop :=
  ∀ s t : State, s.responsesOk → step s = .next t → t.responsesOk

/-- R37, R38, R126: every step keeps the record in order: the responses taken, then those waiting,
then those to come are the responses to the accepted requests, one each, in acceptance order.  At a reset
this rests on the model's choice (log entry 18) that the requests dropped leave the record `accepted`. -/
def Obligations.StepKeepsTheRecordInOrder : Prop :=
  ∀ s t : State, s.recordOk → step s = .next t → t.recordOk

/-- The reset state meets the two invariants of the record.  That the record starts empty, on which this
rests, is the model's choice (log entry 7). -/
def Obligations.ResetMeetsTheRecordInvariants : Prop :=
  State.reset.responsesOk ∧ State.reset.recordOk

/-- R19: the response to a request depends on that request's fields and on nothing else: the block is
one total function from requests to responses, in every state. -/
def Obligations.ResponseIsAFunctionOfTheRequest : Prop :=
  ∃ f : Request → Response, ∀ (s : State) (p : Pending) (rest : List Pending),
    s.pending = p :: rest → runRequest p.req s = .next (s.afterAnswer rest (f p.req))

/-- R130: from every state whose ports and queue agree there is a number `n` such that, once the host has
driven `rsp_ready = 1` at `n` edges, however far apart, and has not reset, all requests accepted before
have been answered, in order, whatever the host requests meanwhile. -/
def Obligations.AcceptedRequestsAreAnsweredInFiniteTime : Prop :=
  ∀ s : State, s.interfaceOk → ∃ n, ∀ hs : List Pins, (∀ p ∈ hs, p.rst = false) →
    n ≤ hs.countP (·.rspReady) →
    ∃ t, core.run hs.length { s with host := hs } = .next t ∧
      (s.taken ++ s.ready ++ s.pending.map fun p => respond p.req) <+: t.taken

/-- R130: from every state whose ports and queue agree and whose queue holds fewer than `DEPTH`
requests there is a number of edges after which, if the host neither resets nor requests,
`req_ready` is 1. -/
def Obligations.RequestPortBecomesReadyInFiniteTime : Prop :=
  ∀ s : State, s.interfaceOk → s.inFlight < Config.depth → ∃ n, ∀ hs : List Pins, hs.length = n →
    (∀ p ∈ hs, p.offersNothing) →
    ∃ t, core.run n { s with host := hs } = .next t ∧ t.reqReady = true

/-- R128, R130: from every state whose ports and queue agree, a request the host presents at every
edge, while it takes every response and does not reset, is accepted within a number of edges, as the
next one. -/
def Obligations.OfferedRequestIsAcceptedInFiniteTime : Prop :=
  ∀ (s : State) (q : Request), s.interfaceOk → ∃ n, ∀ hs : List Pins, hs.length = n →
    (∀ p ∈ hs, p.takesResponses ∧ p.reqValid = true ∧ p.req = q) →
    ∃ t, core.run n { s with host := hs } = .next t ∧ (s.accepted ++ [q]) <+: t.accepted

/-! ### Errors -/

/-- R110, R112: over all operations and all operand words, `UNSUPPORTED_PRECISION` is raised exactly
when the operation takes a precision outside `[1, 32]`, `OUT_OF_RANGE` exactly by ENCODE on a
coordinate word that is not a finite binary64 in its closed domain, and `ILLEGAL_OP` by none. -/
def Obligations.ErrorBitsRaisedExactly : Prop :=
  ∀ (i : Instr) (s : State) (p : Pending) (rest : List Pending), s.pending = p :: rest →
    ∃ x, exec i s = .next (s.afterAnswer rest x) ∧
      (x.status.getLsbD 0 = true ↔ i.readsCoordinates = true ∧
        ¬ (legalCoordinate .lat p.req.a[0] ∧ legalCoordinate .lon p.req.a[1])) ∧
      (x.status.getLsbD 1 = true ↔ ∃ n, i.precision = some n ∧ ¬ legalStep n) ∧
      x.status.getLsbD 2 = false

/-- R114: an ENCODE with a bad coordinate and a bad precision answers `status = 011`, and with one of
the two bad the one bit. -/
def Obligations.EncodeReportsBothErrors : Prop :=
  ∀ (n : StepField) (d : DirField) (s : State) (p : Pending) (rest : List Pending),
    s.pending = p :: rest →
    let badCoordinate := ¬ (legalCoordinate .lat p.req.a[0] ∧ legalCoordinate .lon p.req.a[1])
    let failed (st : BitVec 3) :=
      exec (.encode n d) s = .next (s.afterAnswer rest
        ⟨st, 0#4, #v[0, 0, 0, 0, 0, 0, 0, 0, 0], noBounds⟩)
    (badCoordinate → ¬ legalStep n → failed 0b011#3) ∧
    (badCoordinate → legalStep n → failed 0b001#3) ∧
    (¬ badCoordinate → ¬ legalStep n → failed 0b010#3)

/-- R14, R116: no failure is partial: a response with a status other than `000` has `count = 0` and
every word zero, and one with status `000` has at least one result. -/
def Obligations.NoFailureIsPartial : Prop :=
  ∀ (s : State) (p : Pending) (rest : List Pending), s.pending = p :: rest →
    ∃ x, runRequest p.req s = .next (s.afterAnswer rest x) ∧
      (x.status ≠ 0#3 →
        x.count = 0#4 ∧ x.r = #v[0, 0, 0, 0, 0, 0, 0, 0, 0] ∧ x.h = noBounds) ∧
      (x.status = 0#3 → x.count ≠ 0#4)

/-! ### Family 1: the bit interleaver -/

/-- R65, R63: INTERLEAVE answers one word whose bit `2i` is bit `i` of `a[0][31:0]` and whose bit
`2i+1` is bit `i` of `a[1][31:0]`. -/
def Obligations.InterleaveResult : Prop :=
  ∀ (n : StepField) (d : DirField) (s : State) (p : Pending) (rest : List Pending),
    s.pending = p :: rest →
    ∃ v : Word, exec (.interleave n d) s =
        .next (s.afterAnswer rest ⟨0#3, 1#4, #v[v, 0, 0, 0, 0, 0, 0, 0, 0], noBounds⟩) ∧
      ∀ i, i < 32 → v.getLsbD (2 * i) = p.req.a[0].getLsbD i ∧
        v.getLsbD (2 * i + 1) = p.req.a[1].getLsbD i

/-- R66, R64: DEINTERLEAVE answers two words below `2^32`: bit `i` of the first is bit `2i` of `a[0]`,
bit `i` of the second is bit `2i+1`. -/
def Obligations.DeinterleaveResult : Prop :=
  ∀ (n : StepField) (d : DirField) (s : State) (p : Pending) (rest : List Pending),
    s.pending = p :: rest →
    ∃ x y : Word, exec (.deinterleave n d) s =
        .next (s.afterAnswer rest ⟨0#3, 2#4, #v[x, y, 0, 0, 0, 0, 0, 0, 0], noBounds⟩) ∧
      x.toNat < 2 ^ 32 ∧ y.toNat < 2 ^ 32 ∧
      ∀ i, i < 32 → x.getLsbD i = p.req.a[0].getLsbD (2 * i) ∧
        y.getLsbD i = p.req.a[0].getLsbD (2 * i + 1)

/-- R67: the round trip, both ways, of the functions and of the operations. -/
def Obligations.InterleaverRoundTrip : Prop :=
  (∀ x y : Index, dl (il x y) = (x, y)) ∧ (∀ v : Word, il (dl v).1 (dl v).2 = v) ∧
  (∀ (x y : Index) (n n' : StepField) (d d' : DirField) (m : Word),
    (respond (requestOf (.interleave n d) [x.setWidth 64, y.setWidth 64])).r[0] = m →
      (respond (requestOf (.deinterleave n' d') [m])).r[0] = x.setWidth 64 ∧
      (respond (requestOf (.deinterleave n' d') [m])).r[1] = y.setWidth 64) ∧
  (∀ (v x y : Word) (n n' : StepField) (d d' : DirField),
    (respond (requestOf (.deinterleave n d) [v])).r[0] = x →
    (respond (requestOf (.deinterleave n d) [v])).r[1] = y →
      (respond (requestOf (.interleave n' d') [x, y])).r[0] = v)

/-- R70 (a), (b), (c): `IL` and the bitwise operations. -/
def Obligations.InterleaveIsBitwise : Prop :=
  (∀ x y : Index, il x y = il x 0 ||| il 0 y ∧ il 0 y = il y 0 <<< 1 ∧
    il x 0 &&& lonMask 32 = 0 ∧ il 0 y &&& latMask 32 = 0) ∧
  (∀ x₁ y₁ x₂ y₂ : Index,
    il (x₁ &&& x₂) (y₁ &&& y₂) = il x₁ y₁ &&& il x₂ y₂ ∧
    il (x₁ ||| x₂) (y₁ ||| y₂) = il x₁ y₁ ||| il x₂ y₂ ∧
    il (x₁ ^^^ x₂) (y₁ ^^^ y₂) = il x₁ y₁ ^^^ il x₂ y₂)

/-- R70 (d), (e), (f): `IL` and the order of the integers. -/
def Obligations.InterleaveAndOrder : Prop :=
  (∀ (x y : Index) (n : Nat), n ≤ 32 →
    ((x.toNat < 2 ^ n ∧ y.toNat < 2 ^ n) ↔ canonical (il x y) n)) ∧
  (∀ x₁ x₂ y : Index, x₁ < x₂ → il x₁ y < il x₂ y) ∧
  (∀ x y₁ y₂ : Index, y₁ < y₂ → il x y₁ < il x y₂) ∧
  (∀ x y : Index, il x y + 1 = il (x + 1) y ↔ x.toNat % 2 = 0)

/-- R68, R69: the spread and compact networks compute `IL` and `DL`. -/
def Obligations.SpreadAndCompactNetworks : Prop :=
  (∀ x y : Index, ilSpread x y = il x y) ∧ (∀ v : Word, dlCompact v = dl v)

/-! ### Family 2: the cell codec -/

/-- R74, R76: ENCODE of two legal coordinates at a legal precision answers one code whose axis indices
are those of the cells that hold the coordinates, on exact values. -/
def Obligations.EncodeResult : Prop :=
  ∀ (n : StepField) (d : DirField) (s : State) (p : Pending) (rest : List Pending),
    s.pending = p :: rest → legalStep n →
    legalCoordinate .lat p.req.a[0] → legalCoordinate .lon p.req.a[1] →
    ∃ v : Word, exec (.encode n d) s =
        .next (s.afterAnswer rest ⟨0#3, 1#4, #v[v, 0, 0, 0, 0, 0, 0, 0, 0], noBounds⟩) ∧
      inCell (f64Val p.req.a[0]) .lat n.toNat (dl v).1.toNat ∧
      inCell (f64Val p.req.a[1]) .lon n.toNat (dl v).2.toNat ∧ canonical v n.toNat

/-- R76: the cell that holds a value is unique, so `inCell` determines the index. -/
def Obligations.CellOfAValueIsUnique : Prop :=
  ∀ (q : ℚ) (ax : Axis) (n i j : Nat), 1 ≤ n → inCell q ax n i → inCell q ax n j → i = j

/-- R71, R72: the clamp changes the index for exactly one input, the axis's maximum, which goes to the
last cell; the index is below `2^step`. -/
def Obligations.ClampActsOnTheMaximumOnly : Prop :=
  ∀ (q : ℚ) (ax : Axis) (n : Nat), 1 ≤ n → n ≤ 32 → Config.axisMin ax ≤ q → q ≤ Config.axisMax ax →
    let scaled := ⌊(q - Config.axisMin ax) / Config.axisRange ax * (2 ^ n : ℕ)⌋
    quant q ax n < 2 ^ n ∧
    (q = Config.axisMax ax → scaled = 2 ^ n ∧ quant q ax n = 2 ^ n - 1) ∧
    (q < Config.axisMax ax → (quant q ax n : Int) = scaled)

/-- R77: the quantizer is monotone, sends the ends and the middle of the axis where the rule says, and
nests: a coarser index is the finer one with its low bits dropped, and so is a coarser code.  The monotone
clause takes no axis interval and no precision as a premise, and the clause on the ends no `n ≤ 32`:
outside the domain of `QUANT` (R71) they speak of values that are the model's choice (log entry 14), so
this reaches further than R77. -/
def Obligations.QuantizerLaws : Prop :=
  (∀ (q r : ℚ) (ax : Axis) (n : Nat), q ≤ r → quant q ax n ≤ quant r ax n) ∧
  (∀ (ax : Axis) (n : Nat), 1 ≤ n → quant (Config.axisMin ax) ax n = 0 ∧
    quant (Config.axisMax ax) ax n = 2 ^ n - 1 ∧ quant 0 ax n = 2 ^ (n - 1)) ∧
  (∀ (q : ℚ) (ax : Axis) (n : Nat), Config.axisMin ax ≤ q → q ≤ Config.axisMax ax →
    1 ≤ n → n < 32 → quant q ax n = quant q ax (n + 1) / 2) ∧
  (∀ (lat lon : Word) (n : Nat), legalCoordinate .lat lat → legalCoordinate .lon lon →
    1 ≤ n → n < 32 → encodeCode lat lon n = encodeCode lat lon (n + 1) >>> 2) ∧
  (∀ (q : ℚ) (ax : Axis) (n : Nat), Config.axisMin ax ≤ q → q ≤ Config.axisMax ax →
    1 ≤ n → n ≤ 32 → quant q ax n = quant q ax 32 / 2 ^ (32 - n))

/-- R73: the integer-only quantizer equals the exact one on every coordinate word of the domain. -/
def Obligations.IntegerQuantizerIsExact : Prop :=
  ∀ (b : Word) (ax : Axis) (n : Nat), legalCoordinate ax b → 1 ≤ n → n ≤ 32 →
    quantInt b ax n = quant (f64Val b) ax n

/-- R79, R80, R81: DECODE at a legal precision answers four finite binary64 words whose values are
exactly the bounds of the cell its operand's active bits name, in the order latMin, latMax, lonMin,
lonMax. -/
def Obligations.DecodeResult : Prop :=
  ∀ (n : StepField) (d : DirField) (s : State) (p : Pending) (rest : List Pending),
    s.pending = p :: rest → legalStep n →
    ∃ b₀ b₁ b₂ b₃ : Word, exec (.decode n d) s =
        .next (s.afterAnswer rest ⟨0#3, 4#4, #v[b₀, b₁, b₂, b₃, 0, 0, 0, 0, 0], noBounds⟩) ∧
      let cell := dl (p.req.a[0] &&& active n.toNat)
      (∀ b ∈ [b₀, b₁, b₂, b₃], f64Class b = .finite) ∧
      f64Val b₀ = bound cell.1.toNat .lat n.toNat ∧
      f64Val b₁ = bound (cell.1.toNat + 1) .lat n.toNat ∧
      f64Val b₂ = bound cell.2.toNat .lon n.toNat ∧
      f64Val b₃ = bound (cell.2.toNat + 1) .lon n.toNat

/-- R85: DECODE never answers a NaN, an infinity, a subnormal or `-0.0`, and its values have magnitude 0
or between `180 / 2^32` and 180. -/
def Obligations.DecodeAnswersPlainNumbers : Prop :=
  ∀ (code : Word) (n : StepField) (d : DirField) (k : Nat) (hk : k < 4), legalStep n →
    let b := (respond (requestOf (.decode n d) [code])).r[k]
    f64Class b = .finite ∧ (f64Exp b = 0 → b = 0) ∧
      (b ≠ 0 → 180 / (2 ^ 32 : ℕ) ≤ |f64Val b| ∧ |f64Val b| ≤ 180)

/-- R17: `f64enc` is the word with a given value: encoding the value of a finite word gives the word
back, but for `-0.0`, whose value `f64enc` writes as `+0.0`. -/
def Obligations.F64EncodingInvertsValue : Prop :=
  ∀ b : Word, f64Class b = .finite → b ≠ 0x8000000000000000#64 → f64Enc (f64Val b) = b

/-- R82: containment: the box DECODE gives for the code ENCODE gives contains the coordinate, and
strictly below its upper bounds but at the domain's upper ends. -/
def Obligations.EncodedPointLiesInItsBox : Prop :=
  ∀ (lat lon c : Word) (n : StepField) (d d' : DirField), legalStep n →
    legalCoordinate .lat lat → legalCoordinate .lon lon →
    (respond (requestOf (.encode n d) [lat, lon])).r[0] = c →
    let box := respond (requestOf (.decode n d') [c])
    f64Val box.r[0] ≤ f64Val lat ∧ f64Val lat ≤ f64Val box.r[1] ∧
    f64Val box.r[2] ≤ f64Val lon ∧ f64Val lon ≤ f64Val box.r[3] ∧
    (f64Val lat ≠ 90 → f64Val lat < f64Val box.r[1]) ∧
    (f64Val lon ≠ 180 → f64Val lon < f64Val box.r[3])

/-- R86: inverse image: ENCODE returns a canonical code exactly for the coordinates of its box, the
upper bounds excluded but at 90 and 180; encoding the lower-left corner returns the code, and encoding
the upper-right corner the north-east neighbour's, except at the domain's upper bounds. -/
def Obligations.BoxIsTheInverseImageOfItsCode : Prop :=
  ∀ (c : Word) (n : StepField) (d d' : DirField), legalStep n → canonical c n.toNat →
    let box := respond (requestOf (.decode n d') [c])
    (∀ lat lon : Word, legalCoordinate .lat lat → legalCoordinate .lon lon →
      ((respond (requestOf (.encode n d) [lat, lon])).r[0] = c ↔
        (f64Val box.r[0] ≤ f64Val lat ∧ (f64Val lat < f64Val box.r[1] ∨
          (f64Val lat = 90 ∧ f64Val box.r[1] = 90))) ∧
        (f64Val box.r[2] ≤ f64Val lon ∧ (f64Val lon < f64Val box.r[3] ∨
          (f64Val lon = 180 ∧ f64Val box.r[3] = 180))))) ∧
    respond (requestOf (.encode n d) [box.r[0], box.r[2]]) =
      ⟨0#3, 1#4, #v[c, 0, 0, 0, 0, 0, 0, 0, 0], noBounds⟩ ∧
    (f64Val box.r[1] ≠ 90 → f64Val box.r[3] ≠ 180 →
      respond (requestOf (.encode n d) [box.r[1], box.r[3]]) =
        ⟨0#3, 1#4, #v[move (move c .lat .plus n.toNat) .lon .plus n.toNat, 0, 0, 0, 0, 0, 0, 0, 0],
          noBounds⟩)

/-! ### Family 3: the neighbour cell engine -/

/-- R90, R87, R88, R89: MOVE_LAT in its three directions answers one code: the latitude index of the
masked operand moved modulo `2^step`, the longitude index untouched. -/
def Obligations.MoveLatResult : Prop :=
  ∀ (n : StepField) (i : Instr) (e : Int) (s : State) (p : Pending) (rest : List Pending),
    (i, e) ∈ [(Instr.moveLatStay n, (0 : Int)), (.moveLatNorth n, 1), (.moveLatSouth n, -1)] →
    s.pending = p :: rest → legalStep n →
    ∃ v : Word, exec i s =
        .next (s.afterAnswer rest ⟨0#3, 1#4, #v[v, 0, 0, 0, 0, 0, 0, 0, 0], noBounds⟩) ∧
      let cell := dl (p.req.a[0] &&& active n.toNat)
      shiftedIndices cell.1 cell.2 e 0 n.toNat v

/-- R91, R87, R88, R89: MOVE_LON in its three directions answers one code: the longitude index of the
masked operand moved modulo `2^step`, the latitude index untouched. -/
def Obligations.MoveLonResult : Prop :=
  ∀ (n : StepField) (i : Instr) (e : Int) (s : State) (p : Pending) (rest : List Pending),
    (i, e) ∈ [(Instr.moveLonStay n, (0 : Int)), (.moveLonEast n, 1), (.moveLonWest n, -1)] →
    s.pending = p :: rest → legalStep n →
    ∃ v : Word, exec i s =
        .next (s.afterAnswer rest ⟨0#3, 1#4, #v[v, 0, 0, 0, 0, 0, 0, 0, 0], noBounds⟩) ∧
      let cell := dl (p.req.a[0] &&& active n.toNat)
      shiftedIndices cell.1 cell.2 0 e n.toNat v

/-- R93: NEIGHBORS answers nine codes, in the order N, NE, E, SE, S, SW, W, NW, C, whose indices are
those of the rule's list; the last is the masked operand. -/
def Obligations.NeighborsResult : Prop :=
  ∀ (n : StepField) (d : DirField) (s : State) (p : Pending) (rest : List Pending),
    s.pending = p :: rest → legalStep n →
    ∃ v : Vector Word 9,
      exec (.neighbors n d) s = .next (s.afterAnswer rest ⟨0#3, 9#4, v, noBounds⟩) ∧
      let c := p.req.a[0] &&& active n.toNat
      let at' (k : Fin 9) (i j : Int) := shiftedIndices (dl c).1 (dl c).2 i j n.toNat v[k]
      at' 0 1 0 ∧ at' 1 1 1 ∧ at' 2 0 1 ∧ at' 3 (-1) 1 ∧ at' 4 (-1) 0 ∧ at' 5 (-1) (-1) ∧
        at' 6 0 (-1) ∧ at' 7 1 (-1) ∧ v[8] = c

/-- R92: the grid edge wraps, on both axes and silently: past the last index comes the first, and
before the first the last. -/
def Obligations.MovesWrapAtTheGridEdge : Prop :=
  ∀ (n : Nat) (x : Index), 1 ≤ n → n ≤ 32 → x.toNat < 2 ^ n →
    (moveIndex x .plus n).toNat = (if x.toNat = 2 ^ n - 1 then 0 else x.toNat + 1) ∧
    (moveIndex x .minus n).toNat = (if x.toNat = 0 then 2 ^ n - 1 else x.toNat - 1) ∧
    moveIndex x .stay n = x

/-- R96: the carry-propagating mask datapath computes the move, for every precision, axis, direction
and canonical code.  R96 is informative, and its reading of the masks is the spec's own (G3 of
spec/93_implementation_defined.md). -/
def Obligations.MaskDatapathComputesTheMove : Prop :=
  ∀ (c : Word) (ax : Axis) (d : Direction) (n : Nat), 1 ≤ n → n ≤ 32 → canonical c n →
    moveMasked c ax d n = move c ax d n

/-- R94, R95 (a), (c): moves on the two axes commute, opposite moves cancel at the grid edge too, and
every move of a canonical code is canonical. -/
def Obligations.MovesCommuteCancelAndStayCanonical : Prop :=
  ∀ (c : Word) (n : Nat), 1 ≤ n → n ≤ 32 → canonical c n →
    (∀ d₁ d₂ : Direction,
      move (move c .lat d₁ n) .lon d₂ n = move (move c .lon d₂ n) .lat d₁ n) ∧
    (∀ ax : Axis, move (move c ax .plus n) ax .minus n = c ∧
      move (move c ax .minus n) ax .plus n = c) ∧
    (∀ (ax : Axis) (d : Direction), canonical (move c ax d n) n)

/-- R95 (b): `2^step` moves of `+1` on one axis return to the start. -/
def Obligations.FullCircleOfMovesReturns : Prop :=
  ∀ (c : Word) (ax : Axis) (n : Nat), 1 ≤ n → n ≤ 32 → canonical c n →
    (fun v => move v ax .plus n)^[2 ^ n] c = c

/-- R95 (d): the nine neighbour codes are pairwise distinct for every centre when `step >= 2`, and are
the four codes of the whole grid when `step = 1`. -/
def Obligations.NeighborsAreDistinctFromStepTwo : Prop :=
  ∀ (c : Word) (n : Nat), 1 ≤ n → n ≤ 32 → canonical c n →
    (2 ≤ n → (neighborCodes c n).Nodup) ∧
    (n = 1 → ∀ v : Word, v ∈ neighborCodes c n ↔ v.toNat < 4)

/-- R98: the northern neighbour is the next integer exactly when the latitude index is even, the eastern
one is two further exactly when the longitude index is even, and the block of four is consecutive
exactly when the code is a multiple of 4. -/
def Obligations.NumericalAdjacencyOfNeighbors : Prop :=
  ∀ (c : Word) (n : Nat), 1 ≤ n → n ≤ 32 → canonical c n →
    let north := move c .lat .plus n
    let east := move c .lon .plus n
    let northEast := move north .lon .plus n
    (north = c + 1 ↔ (dl c).1.toNat % 2 = 0) ∧ (east = c + 2 ↔ (dl c).2.toNat % 2 = 0) ∧
    (north = c + 1 ∧ east = c + 2 ∧ northEast = c + 3 ↔ c.toNat % 4 = 0)

/-! ### Family 4: the range coalescer -/

/-- R104, R102: COALESCE answers between one and nine intervals, each holding at least one integer,
ascending and with a gap before the next, holding exactly the nine operand values, and as many
integers together as there are distinct operand values. -/
def Obligations.CoalesceResult : Prop :=
  ∀ (n : StepField) (d : DirField) (s : State) (p : Pending) (rest : List Pending),
    s.pending = p :: rest →
    ∃ is : List Interval, 1 ≤ is.length ∧ is.length ≤ 9 ∧
      exec (.coalesce n d) s = .next (s.afterAnswer rest
        ⟨0#3, BitVec.ofNat 4 is.length, vec9 0#64 (is.map Interval.lo),
          vec9 0#65 (is.map Interval.hi)⟩) ∧
      (∀ iv ∈ is, iv.lo.toNat < iv.hi.toNat) ∧
      is.Pairwise (fun a b => a.hi.toNat < b.lo.toNat) ∧
      (∀ c : Nat, (∃ iv ∈ is, iv.holds c) ↔ ∃ w ∈ p.req.a.toList, w.toNat = c) ∧
      (is.map fun iv => iv.hi.toNat - iv.lo.toNat).sum = p.req.a.toList.dedup.length

/-- R103, R105: the response of COALESCE is determined by the set of its operand values: their order
and their repetition do not affect it. -/
def Obligations.CoalesceDependsOnTheSetOfCodes : Prop :=
  ∀ q q' : Request, (∀ w : Word, w ∈ q.a.toList ↔ w ∈ q'.a.toList) →
    coalesceResponse q = coalesceResponse q'

/-- R105: the four properties of R104 have one solution: intervals that are non-empty, in order, apart,
and hold the operand values exactly are the intervals COALESCE answers. -/
def Obligations.CoalescedIntervalsAreUnique : Prop :=
  ∀ (q : Request) (is : List Interval),
    (∀ iv ∈ is, iv.lo.toNat < iv.hi.toNat) →
    is.Pairwise (fun a b => a.hi.toNat < b.lo.toNat) →
    (∀ c : Nat, (∃ iv ∈ is, iv.holds c) ↔ ∃ w ∈ q.a.toList, w.toNat = c) →
    coalesceCodes q.a.toList = is

/-- R106, R100: every interval of a COALESCE holds between 1 and 9 integers, and its upper bound exceeds
`2^64 - 1` only as `2^64`, and only in the last interval. -/
def Obligations.CoalescedIntervalSizes : Prop :=
  ∀ (q : Request) (k : Nat) (hk : k < 9), k < (coalesceResponse q).count.toNat →
    let x := coalesceResponse q
    1 ≤ x.h[k].toNat - x.r[k].toNat ∧ x.h[k].toNat - x.r[k].toNat ≤ 9 ∧
    x.h[k].toNat ≤ 2 ^ 64 ∧ (x.h[k].toNat = 2 ^ 64 → k + 1 = x.count.toNat)

/-- R108, R59: NRANGES at a legal precision is two transactions; the second one's intervals, nine at most,
hold the nine codes of the first and no other integer, and at `step = 1` they are the single interval
`[0, 4)`.  That the words and fields the two requests leave unused are zero is the model's choice (log
entry 22). -/
def Obligations.NeighborRangesCoverTheBlock : Prop :=
  ∀ (code : Word) (n : StepField), legalStep n →
    ∃ x : Response, ∃ is : List Interval,
      pseudoNRanges code n =
        [(requestOf (.neighbors n 0) [code], x),
         (requestOf (.coalesce 0 0) x.r.toList, Response.ofIntervals is)] ∧
      is.length ≤ 9 ∧
      x.r.toList = neighborCodes (code &&& active n.toNat) n.toNat ∧
      (∀ c : Nat, (∃ iv ∈ is, iv.holds c) ↔ ∃ w ∈ x.r.toList, w.toNat = c) ∧
      (n = 1 → is = [⟨0, 4⟩])

/-- R59: QUERY stops at the first response whose status is not `000` and reports that status: on a bad
coordinate or a bad precision it is one transaction, and otherwise three, all successful. -/
def Obligations.QueryStopsAtTheFirstError : Prop :=
  ∀ (lat lon : Word) (n : StepField),
    let legal := legalCoordinate .lat lat ∧ legalCoordinate .lon lon ∧ legalStep n
    (¬ legal → (pseudoQuery lat lon n).length = 1 ∧
      pseudoStatus (pseudoQuery lat lon n) = encodeFlags n lat lon ∧
      pseudoStatus (pseudoQuery lat lon n) ≠ 0) ∧
    (legal → (pseudoQuery lat lon n).length = 3 ∧ pseudoStatus (pseudoQuery lat lon n) = 0)
end

