-- ==== Sys2Proof/Laws/Operands.lean ====
section
/-! SUPPORT. The small lemmas of the operand forms, the response builders and the coalescer's sort. -/

namespace Sys2Proof

/-- One word of `vec9`. -/
theorem getElem_vec9 {α : Type} (z : α) (l : List α) (k : Nat) (hk : k < 9) :
    (vec9 z l)[k] = l.getD k z := by
  match k, hk with
  | 0, _ | 1, _ | 2, _ | 3, _ | 4, _ | 5, _ | 6, _ | 7, _ | 8, _ => rfl

@[simp] theorem Response.raised_status (f : BitVec 3) : (Response.raised f).status = f := rfl
@[simp] theorem Response.raised_count (f : BitVec 3) : (Response.raised f).count = 0#4 := rfl
@[simp] theorem Response.ofWords_status (ws : List Word) : (Response.ofWords ws).status = 0#3 := rfl
@[simp] theorem Response.ofWords_count (ws : List Word) :
    (Response.ofWords ws).count = BitVec.ofNat 4 ws.length := rfl
@[simp] theorem Response.ofWords_r (ws : List Word) : (Response.ofWords ws).r = vec9 0#64 ws := rfl
@[simp] theorem Response.ofIntervals_status (is : List Interval) :
    (Response.ofIntervals is).status = 0#3 := rfl
@[simp] theorem Response.orRaise_zero (x : Response) : Response.orRaise 0#3 x = x := rfl

/-- An operation with a bit raised answers the bits alone (R14). -/
theorem Response.orRaise_of_ne {f : BitVec 3} (h : f ≠ 0#3) (x : Response) :
    Response.orRaise f x = Response.raised f := by
  simp [Response.orRaise, h]

/-- Bit `j` of `IL(x, y)` (R63). -/
theorem getLsbD_il (x y : Index) (j : Nat) :
    (il x y).getLsbD j =
      (decide (j < 64) && if j % 2 = 0 then x.getLsbD (j / 2) else y.getLsbD (j / 2)) := by
  simp only [il, BitVec.getLsbD_ofFnLE]
  by_cases h : j < 64 <;> simp [h]

/-- Bit `i` of a component of `DL` (R64). -/
theorem getLsbD_component (k : Nat) (v : Word) (i : Nat) :
    (component k v).getLsbD i = (decide (i < 32) && v.getLsbD (2 * i + k)) := by
  simp only [component, BitVec.getLsbD_ofFnLE]
  by_cases h : i < 32 <;> simp [h]

/-- The precision check, as a statement about the number (R110). -/
theorem precisionLegal_iff (step : StepField) : precisionLegal step = true ↔ legalStep step := by
  rw [precisionLegal, Bool.and_eq_true, decide_eq_true_iff, decide_eq_true_iff]
  exact Iff.rfl

/-- A legal precision raises nothing (R110). -/
theorem precisionFlag_of_legal {step : StepField} (h : legalStep step) : precisionFlag step = 0#3 := by
  simp [precisionFlag, (precisionLegal_iff step).2 h]

/-- A precision outside `[1, 32]` raises `UnsupportedPrecision` (R110). -/
theorem precisionFlag_of_illegal {step : StepField} (h : ¬ legalStep step) :
    precisionFlag step = unsupportedPrecision := by
  simp [precisionFlag, mt (precisionLegal_iff step).1 h]

/-- The domain check of one word, as a statement about its value (R75). -/
theorem inDomain_iff (ax : Axis) (b : Word) : inDomain ax b = true ↔ legalCoordinate ax b := by
  unfold inDomain legalCoordinate
  cases f64Class b <;> simp

/-- The sort keeps the codes, duplicates included (R102). -/
theorem insertCode_perm (c : Word) (l : List Word) : (insertCode c l).Perm (c :: l) := by
  induction l with
  | nil => exact .refl _
  | cons d ds ih =>
    unfold insertCode
    split
    · exact .refl _
    · exact (ih.cons d).trans (.swap c d ds)

/-- The sorted codes are the codes (R102). -/
theorem sortCodes_perm (l : List Word) : (sortCodes l).Perm l := by
  induction l with
  | nil => exact .refl _
  | cons c cs ih => exact (insertCode_perm c (sortCodes cs)).trans (ih.cons c)

/-- Inserting in an ascending list leaves it ascending. -/
theorem insertCode_sorted (c : Word) {l : List Word} (h : l.Pairwise (· ≤ ·)) :
    (insertCode c l).Pairwise (· ≤ ·) := by
  induction l with
  | nil => simp [insertCode]
  | cons d ds ih =>
    rw [List.pairwise_cons] at h
    unfold insertCode
    split
    · rename_i hc
      refine List.pairwise_cons.2 ⟨fun x hx => ?_, List.pairwise_cons.2 h⟩
      rcases List.mem_cons.1 hx with rfl | hx
      · exact hc
      · exact BitVec.le_trans hc (h.1 x hx)
    · rename_i hc
      refine List.pairwise_cons.2 ⟨fun x hx => ?_, ih h.2⟩
      rcases List.mem_cons.1 ((insertCode_perm c ds).mem_iff.1 hx) with rfl | hx
      · rcases BitVec.le_total d x with h' | h'
        · exact h'
        · exact absurd h' hc
      · exact h.1 x hx

/-- The sorted codes ascend (R103). -/
theorem sortCodes_sorted (l : List Word) : (sortCodes l).Pairwise (· ≤ ·) := by
  induction l with
  | nil => exact List.Pairwise.nil
  | cons c cs ih => exact insertCode_sorted c ih

/-- The scan closes at most one interval per code, and the one it opened with (R102). -/
theorem scanCodes_length_le (lo : Word) (hi : Hi) (l : List Word) :
    (scanCodes lo hi l).length ≤ l.length + 1 := by
  induction l generalizing lo hi with
  | nil => simp [scanCodes]
  | cons c cs ih =>
    unfold scanCodes
    split_ifs
    · exact (ih _ _).trans (by simp)
    · exact (ih _ _).trans (by simp)
    · simpa using ih _ _

/-- There are at most as many intervals as codes (R102, R104). -/
theorem coalesceCodes_length_le (l : List Word) : (coalesceCodes l).length ≤ l.length := by
  have h := (sortCodes_perm l).length_eq
  unfold coalesceCodes
  split
  · simp
  · rename_i c cs hs
    simpa [← h, hs] using scanCodes_length_le c (onePast c) cs

/-- `onePast` never wraps (R100). -/
theorem onePast_toNat (c : Word) : (onePast c).toNat = c.toNat + 1 := by
  have := c.isLt
  simp only [onePast, BitVec.toNat_add, BitVec.toNat_setWidth, BitVec.toNat_ofNat]
  omega

end Sys2Proof
end

