-- ==== Sys2Proof/Laws/State.lean ====
section
/-! SUPPORT. One lemma per field for every update of the state, true by unfolding, so that no proof
unfolds a record update. -/

namespace Sys2Proof.Machine

/-! ### `afterAnswer`: the oldest request becomes its response, nothing else changes -/

@[simp] theorem State.afterAnswer_reqReady (s : State) (rest : List Pending) (x : Response) :
    (s.afterAnswer rest x).reqReady = s.reqReady := rfl
@[simp] theorem State.afterAnswer_rspValid (s : State) (rest : List Pending) (x : Response) :
    (s.afterAnswer rest x).rspValid = s.rspValid := rfl
@[simp] theorem State.afterAnswer_ready (s : State) (rest : List Pending) (x : Response) :
    (s.afterAnswer rest x).ready = s.ready ++ [x] := rfl
@[simp] theorem State.afterAnswer_pending (s : State) (rest : List Pending) (x : Response) :
    (s.afterAnswer rest x).pending = rest := rfl
@[simp] theorem State.afterAnswer_host (s : State) (rest : List Pending) (x : Response) :
    (s.afterAnswer rest x).host = s.host := rfl
@[simp] theorem State.afterAnswer_accepted (s : State) (rest : List Pending) (x : Response) :
    (s.afterAnswer rest x).accepted = s.accepted := rfl
@[simp] theorem State.afterAnswer_taken (s : State) (rest : List Pending) (x : Response) :
    (s.afterAnswer rest x).taken = s.taken := rfl
@[simp] theorem State.afterAnswer_readyIn (s : State) (rest : List Pending) (x : Response) :
    (s.afterAnswer rest x).readyIn = s.readyIn := rfl
@[simp] theorem State.afterAnswer_cycle (s : State) (rest : List Pending) (x : Response) :
    (s.afterAnswer rest x).cycle = s.cycle := rfl

/-! ### `ageQueue`: one cycle less to wait -/

@[simp] theorem State.ageQueue_reqReady (s : State) :
    (s.ageQueue).reqReady = s.reqReady := rfl
@[simp] theorem State.ageQueue_rspValid (s : State) :
    (s.ageQueue).rspValid = s.rspValid := rfl
@[simp] theorem State.ageQueue_ready (s : State) :
    (s.ageQueue).ready = s.ready := rfl
@[simp] theorem State.ageQueue_pending (s : State) :
    (s.ageQueue).pending = s.pending.map Pending.age := rfl
@[simp] theorem State.ageQueue_host (s : State) :
    (s.ageQueue).host = s.host := rfl
@[simp] theorem State.ageQueue_accepted (s : State) :
    (s.ageQueue).accepted = s.accepted := rfl
@[simp] theorem State.ageQueue_taken (s : State) :
    (s.ageQueue).taken = s.taken := rfl
@[simp] theorem State.ageQueue_readyIn (s : State) :
    (s.ageQueue).readyIn = s.readyIn - 1 := rfl
@[simp] theorem State.ageQueue_cycle (s : State) :
    (s.ageQueue).cycle = s.cycle := rfl

/-! ### `endEdge`: the registered outputs, the next pins, the next cycle -/

@[simp] theorem State.endEdge_reqReady (s : State) :
    (s.endEdge).reqReady = (s.readyIn == 0 && decide (s.inFlight < Config.depth)) := rfl
@[simp] theorem State.endEdge_rspValid (s : State) :
    (s.endEdge).rspValid = !s.ready.isEmpty := rfl
@[simp] theorem State.endEdge_ready (s : State) :
    (s.endEdge).ready = s.ready := rfl
@[simp] theorem State.endEdge_pending (s : State) :
    (s.endEdge).pending = s.pending := rfl
@[simp] theorem State.endEdge_host (s : State) :
    (s.endEdge).host = s.host.tail := rfl
@[simp] theorem State.endEdge_accepted (s : State) :
    (s.endEdge).accepted = s.accepted := rfl
@[simp] theorem State.endEdge_taken (s : State) :
    (s.endEdge).taken = s.taken := rfl
@[simp] theorem State.endEdge_readyIn (s : State) :
    (s.endEdge).readyIn = s.readyIn := rfl
@[simp] theorem State.endEdge_cycle (s : State) :
    (s.endEdge).cycle = s.cycle + 1 := rfl

/-! ### `resetEdge`: the queue is emptied, what it held leaves the record -/

@[simp] theorem State.resetEdge_reqReady (s : State) :
    (s.resetEdge).reqReady = Config.readyAfterReset s.cycle := rfl
@[simp] theorem State.resetEdge_rspValid (s : State) :
    (s.resetEdge).rspValid = false := rfl
@[simp] theorem State.resetEdge_ready (s : State) :
    (s.resetEdge).ready = [] := rfl
@[simp] theorem State.resetEdge_pending (s : State) :
    (s.resetEdge).pending = [] := rfl
@[simp] theorem State.resetEdge_host (s : State) :
    (s.resetEdge).host = s.host.tail := rfl
@[simp] theorem State.resetEdge_accepted (s : State) :
    (s.resetEdge).accepted = s.accepted.take s.taken.length := rfl
@[simp] theorem State.resetEdge_taken (s : State) :
    (s.resetEdge).taken = s.taken := rfl
@[simp] theorem State.resetEdge_readyIn (s : State) :
    (s.resetEdge).readyIn = Config.readyLag s.cycle := rfl
@[simp] theorem State.resetEdge_cycle (s : State) :
    (s.resetEdge).cycle = s.cycle + 1 := rfl

/-! ### `withFetchWord`: one request placed first, an idle edge placed next -/

@[simp] theorem State.withFetchWord_reqReady (s : State) (nbits w : Nat) :
    (s.withFetchWord nbits w).reqReady = s.reqReady := rfl
@[simp] theorem State.withFetchWord_rspValid (s : State) (nbits w : Nat) :
    (s.withFetchWord nbits w).rspValid = s.rspValid := rfl
@[simp] theorem State.withFetchWord_ready (s : State) (nbits w : Nat) :
    (s.withFetchWord nbits w).ready = s.ready := rfl
@[simp] theorem State.withFetchWord_pending (s : State) (nbits w : Nat) :
    (s.withFetchWord nbits w).pending = ⟨Request.ofBits (w % 2 ^ nbits), 0⟩ :: s.pending := rfl
@[simp] theorem State.withFetchWord_host (s : State) (nbits w : Nat) :
    (s.withFetchWord nbits w).host = Pins.idle :: s.host := rfl
@[simp] theorem State.withFetchWord_accepted (s : State) (nbits w : Nat) :
    (s.withFetchWord nbits w).accepted = s.accepted := rfl
@[simp] theorem State.withFetchWord_taken (s : State) (nbits w : Nat) :
    (s.withFetchWord nbits w).taken = s.taken := rfl
@[simp] theorem State.withFetchWord_readyIn (s : State) (nbits w : Nat) :
    (s.withFetchWord nbits w).readyIn = s.readyIn := rfl
@[simp] theorem State.withFetchWord_cycle (s : State) (nbits w : Nat) :
    (s.withFetchWord nbits w).cycle = s.cycle := rfl

/-! ### The events of the response and the request channel -/

/-- What taking a response can do (R28): the oldest response moves to the record, or nothing. -/
theorem State.takeResponse_cases (s : State) :
    (∃ x rest, s.rspValid = true ∧ s.pins.rspReady = true ∧ s.ready = x :: rest ∧
      s.takeResponse = { s with ready := rest, taken := s.taken ++ [x] }) ∨
    ((s.rspValid = false ∨ s.pins.rspReady = false ∨ s.ready = []) ∧ s.takeResponse = s) := by
  unfold State.takeResponse
  cases hv : s.rspValid <;> cases hr : s.pins.rspReady <;> cases hq : s.ready <;> simp

/-- What the request channel can do (R28): the request presented joins the queue, or nothing. -/
theorem State.acceptRequest_cases (s : State) :
    (s.pins.reqValid = true ∧ s.reqReady = true ∧
      s.acceptRequest = { s with
        pending := s.pending ++ [⟨s.pins.req, Config.latency s.cycle s.pins.req.ctl⟩]
        accepted := s.accepted ++ [s.pins.req]
        readyIn := Config.readyLag s.cycle }) ∨
    ((s.pins.reqValid = false ∨ s.reqReady = false) ∧ s.acceptRequest = s) := by
  unfold State.acceptRequest
  cases hv : s.pins.reqValid <;> cases hr : s.reqReady <;> simp

@[simp] theorem State.takeResponse_reqReady (s : State) : s.takeResponse.reqReady = s.reqReady := by
  rcases s.takeResponse_cases with ⟨x, rest, -, -, -, h⟩ | ⟨-, h⟩ <;> rw [h]
@[simp] theorem State.takeResponse_rspValid (s : State) : s.takeResponse.rspValid = s.rspValid := by
  rcases s.takeResponse_cases with ⟨x, rest, -, -, -, h⟩ | ⟨-, h⟩ <;> rw [h]
@[simp] theorem State.takeResponse_pending (s : State) : s.takeResponse.pending = s.pending := by
  rcases s.takeResponse_cases with ⟨x, rest, -, -, -, h⟩ | ⟨-, h⟩ <;> rw [h]
@[simp] theorem State.takeResponse_host (s : State) : s.takeResponse.host = s.host := by
  rcases s.takeResponse_cases with ⟨x, rest, -, -, -, h⟩ | ⟨-, h⟩ <;> rw [h]
@[simp] theorem State.takeResponse_accepted (s : State) : s.takeResponse.accepted = s.accepted := by
  rcases s.takeResponse_cases with ⟨x, rest, -, -, -, h⟩ | ⟨-, h⟩ <;> rw [h]
@[simp] theorem State.takeResponse_readyIn (s : State) : s.takeResponse.readyIn = s.readyIn := by
  rcases s.takeResponse_cases with ⟨x, rest, -, -, -, h⟩ | ⟨-, h⟩ <;> rw [h]
@[simp] theorem State.takeResponse_cycle (s : State) : s.takeResponse.cycle = s.cycle := by
  rcases s.takeResponse_cases with ⟨x, rest, -, -, -, h⟩ | ⟨-, h⟩ <;> rw [h]
@[simp] theorem State.acceptRequest_reqReady (s : State) : s.acceptRequest.reqReady = s.reqReady := by
  rcases s.acceptRequest_cases with ⟨-, -, h⟩ | ⟨-, h⟩ <;> rw [h]
@[simp] theorem State.acceptRequest_rspValid (s : State) : s.acceptRequest.rspValid = s.rspValid := by
  rcases s.acceptRequest_cases with ⟨-, -, h⟩ | ⟨-, h⟩ <;> rw [h]
@[simp] theorem State.acceptRequest_ready (s : State) : s.acceptRequest.ready = s.ready := by
  rcases s.acceptRequest_cases with ⟨-, -, h⟩ | ⟨-, h⟩ <;> rw [h]
@[simp] theorem State.acceptRequest_host (s : State) : s.acceptRequest.host = s.host := by
  rcases s.acceptRequest_cases with ⟨-, -, h⟩ | ⟨-, h⟩ <;> rw [h]
@[simp] theorem State.acceptRequest_taken (s : State) : s.acceptRequest.taken = s.taken := by
  rcases s.acceptRequest_cases with ⟨-, -, h⟩ | ⟨-, h⟩ <;> rw [h]
@[simp] theorem State.acceptRequest_cycle (s : State) : s.acceptRequest.cycle = s.cycle := by
  rcases s.acceptRequest_cases with ⟨-, -, h⟩ | ⟨-, h⟩ <;> rw [h]

/-- The pins of an edge are those the host list puts first. -/
@[simp] theorem State.takeResponse_pins (s : State) : s.takeResponse.pins = s.pins := by
  simp [State.pins]
@[simp] theorem State.ageQueue_pins (s : State) : s.ageQueue.pins = s.pins := rfl
@[simp] theorem State.acceptRequest_pins (s : State) : s.acceptRequest.pins = s.pins := by
  simp [State.pins]

/-! ### `portEvents`, field by field -/

/-- What has been taken after the events of an edge (R28). -/
theorem State.portEvents_taken_ready (s : State) :
    s.portEvents.taken ++ s.portEvents.ready = s.taken ++ s.ready := by
  simp only [State.portEvents, State.acceptRequest_taken, State.acceptRequest_ready,
    State.ageQueue_taken, State.ageQueue_ready]
  rcases s.takeResponse_cases with ⟨x, rest, -, -, hr, h⟩ | ⟨-, h⟩
  · rw [h]; simp [hr]
  · rw [h]

/-- The requests waiting after the events of an edge: those before, one cycle older, and the one
accepted, if any (R28, R38). -/
theorem State.portEvents_pending (s : State) :
    s.portEvents.pending = s.pending.map Pending.age ++
      (if s.pins.reqValid && s.reqReady then
        [⟨s.pins.req, Config.latency s.cycle s.pins.req.ctl⟩] else []) := by
  unfold State.portEvents
  rcases s.takeResponse.ageQueue.acceptRequest_cases with ⟨hv, hr, h⟩ | ⟨hn, h⟩
  · rw [h]; simp_all
  · rw [h]; rcases hn with hn | hn <;> simp_all

/-- The record of accepted requests after the events of an edge (R28, R129). -/
theorem State.portEvents_accepted (s : State) :
    s.portEvents.accepted = s.accepted ++
      (if s.pins.reqValid && s.reqReady then [s.pins.req] else []) := by
  unfold State.portEvents
  rcases s.takeResponse.ageQueue.acceptRequest_cases with ⟨hv, hr, h⟩ | ⟨hn, h⟩
  · rw [h]; simp_all
  · rw [h]; rcases hn with hn | hn <;> simp_all

@[simp] theorem State.portEvents_host (s : State) : s.portEvents.host = s.host := by
  simp [State.portEvents]
@[simp] theorem State.portEvents_cycle (s : State) : s.portEvents.cycle = s.cycle := by
  simp [State.portEvents]
@[simp] theorem State.portEvents_rspValid (s : State) : s.portEvents.rspValid = s.rspValid := by
  simp [State.portEvents]
@[simp] theorem State.portEvents_reqReady (s : State) : s.portEvents.reqReady = s.reqReady := by
  simp [State.portEvents]
@[simp] theorem Pending.age_req (p : Pending) : p.age.req = p.req := rfl
@[simp] theorem Pending.age_wait (p : Pending) : p.age.wait = p.wait - 1 := rfl

end Sys2Proof.Machine
end

