-- ==== Sys2Proof/Laws/Ops.lean ====
section
/-! SUPPORT. What each shared operation can do, said once: answering a request, dispatching one, and
one step of the machine. -/

namespace Sys2Proof.Machine

/-- An answer to a queue with an oldest request: its response, and nothing else (R134). -/
theorem State.answer_cons {s : State} {p : Pending} {rest : List Pending}
    (f : Request → Response) (h : s.pending = p :: rest) :
    s.answer f = .next (s.afterAnswer rest (f p.req)) := by
  simp [State.answer, h, State.afterAnswer]

/-- No request, no answer. -/
theorem State.answer_nil {s : State} (f : Request → Response) (h : s.pending = []) :
    s.answer f = .fault .noRequest := by
  simp [State.answer, h]

/-- What an answer can do: if it gives a next state, the oldest request became its response. -/
theorem State.answer_eq_next {s t : State} {f : Request → Response} (h : s.answer f = .next t) :
    ∃ p rest, s.pending = p :: rest ∧ t = s.afterAnswer rest (f p.req) := by
  cases hp : s.pending with
  | nil => rw [State.answer_nil f hp] at h; exact absurd h (by simp)
  | cons p rest =>
    rw [State.answer_cons f hp] at h
    exact ⟨p, rest, rfl, (Host.Outcome.next.inj h).symm⟩

/-- The response an operation computes from a request's bundle (R65, R66, R74, R79, R90, R91, R93,
R102). -/
def responseOf : Instr → Request → Response
  | .interleave _ _ => interleaveResponse
  | .deinterleave _ _ => deinterleaveResponse
  | .encode step _ => encodeResponse step
  | .decode step _ => decodeResponse step
  | .moveLatStay step => moveResponse .lat .stay step
  | .moveLatNorth step => moveResponse .lat .plus step
  | .moveLatSouth step => moveResponse .lat .minus step
  | .moveLonStay step => moveResponse .lon .stay step
  | .moveLonEast step => moveResponse .lon .plus step
  | .moveLonWest step => moveResponse .lon .minus step
  | .neighbors step _ => neighborsResponse step
  | .coalesce _ _ => coalesceResponse

/-- Every meaning is one answer to the oldest request. -/
theorem exec_eq_answer (i : Instr) (s : State) : exec i s = s.answer (responseOf i) := by
  cases i <;> rfl

/-- The response to a request, by its control word (R19, R54). -/
def responseTo (q : Request) : Response :=
  match decodeCtl q.ctl with
  | .error _ => .raised illegalOp
  | .ok i => responseOf i q

/-- Running a request answers the oldest one: the control word selects the response. -/
theorem runRequest_eq (q : Request) (s : State) :
    runRequest q s = s.answer fun p =>
      match decodeCtl q.ctl with
      | .error _ => .raised illegalOp
      | .ok i => responseOf i p := by
  unfold runRequest
  cases decodeCtl q.ctl with
  | error e => rfl
  | ok i => exact exec_eq_answer i s

/-- Running the oldest request of a state. -/
theorem runRequest_cons {s : State} {p : Pending} {rest : List Pending}
    (h : s.pending = p :: rest) :
    runRequest p.req s = .next (s.afterAnswer rest (responseTo p.req)) := by
  rw [runRequest_eq, State.answer_cons _ h]
  rfl

/-- The transaction-level response is the response the control word selects (R19, R134). -/
theorem respond_eq (q : Request) : respond q = responseTo q := by
  have h := runRequest_cons (s := { State.reset with pending := [⟨q, 0⟩] }) rfl
  simp only at h
  unfold respond
  rw [h]
  simp [State.reset]

/-- The request that is due is the oldest one. -/
theorem State.due_eq_some {s : State} {q : Request} :
    s.due = some q ↔ ∃ rest, s.pending = ⟨q, 0⟩ :: rest := by
  unfold State.due
  split
  · rename_i q' rest h
    constructor
    · intro hq; cases hq; exact ⟨rest, h⟩
    · rintro ⟨rest', h'⟩; rw [h] at h'; cases h'; rfl
  · rename_i hn
    simp only [reduceCtorEq, false_iff]
    rintro ⟨rest, h⟩
    exact hn q rest h

/-- WHAT A STEP CAN DO, once: reset; or the ports' events alone; or the ports' events and the answer to
the oldest request. -/
theorem step_cases {s t : State} (h : step s = .next t) :
    (s.pins.rst = true ∧ t = s.resetEdge) ∨
    (s.pins.rst = false ∧ s.portEvents.due = none ∧ t = s.portEvents.endEdge) ∨
    (∃ q rest, s.pins.rst = false ∧ s.portEvents.pending = ⟨q, 0⟩ :: rest ∧
      t = (s.portEvents.afterAnswer rest (responseTo q)).endEdge) := by
  unfold step at h
  cases hr : s.pins.rst with
  | true => simp [hr] at h; exact .inl ⟨rfl, h.symm⟩
  | false =>
    simp only [hr, Bool.false_eq_true, if_false] at h
    cases hd : s.portEvents.due with
    | none => simp only [hd] at h; exact .inr (.inl ⟨rfl, rfl, (Host.Outcome.next.inj h).symm⟩)
    | some q =>
      simp only [hd] at h
      obtain ⟨rest, hp⟩ := State.due_eq_some.1 hd
      have hq := runRequest_cons hp
      simp only at hq
      rw [hq] at h
      exact .inr (.inr ⟨q, rest, rfl, hp, (Host.Outcome.next.inj h).symm⟩)

/-- A run of one more step goes on from the next state. -/
theorem run_of_step {n : Nat} {s t : State} (h : step s = .next t) :
    core.run (n + 1) s = core.run n t := by
  have general : ∀ (M : Host.Core) (a b : M.State), M.step a = .next b →
      M.run (n + 1) a = M.run n b := fun M a b hab => by simp [Host.Core.run, hab]
  exact general core s t h

end Sys2Proof.Machine
end

