-- ==== Sys2Proof/Laws/PerInstr.lean ====
section
/-! SUPPORT. The family `EncodesItsRow`: the control word of an operation matches its own row of the
table of R57, for every value of the fields the row leaves open. -/

namespace Sys2Proof.Laws.EncodesItsRow

/-- The control word of the operation matches the row of its mnemonic (R57). -/
def Statement (i : Instr) : Prop := i.wellFormed = true

/-- A row that fixes `op` and `rsv` matches the control words of its `op`. -/
theorem mask_free (op : BitVec 4) (d : DirField) (step : StepField) :
    ctlOf op d step &&& 0x00CF#16 = (op.setWidth 16) := by
  unfold ctlOf
  ext k hk
  interval_cases k <;>
    simp [BitVec.getElem_setWidth]

/-- A row that fixes `dirf` too matches the control words of its `op` and `dirf`. -/
theorem mask_fixed (op : BitVec 4) (d : DirField) (step : StepField) :
    ctlOf op d step &&& 0x00FF#16 = (d.setWidth 16 <<< 4) ||| op.setWidth 16 := by
  unfold ctlOf
  ext k hk
  interval_cases k <;>
    simp [BitVec.getElem_setWidth]

theorem interleave (step : StepField) (dirf : DirField) : Statement (.interleave step dirf) := by
  simp [Statement, Instr.wellFormed, opcodeTable, Instr.mnemonic, OpcodeRow.matches, encodeCtl, mask_free]
theorem deinterleave (step : StepField) (dirf : DirField) : Statement (.deinterleave step dirf) := by
  simp [Statement, Instr.wellFormed, opcodeTable, Instr.mnemonic, OpcodeRow.matches, encodeCtl, mask_free]
theorem encode (step : StepField) (dirf : DirField) : Statement (.encode step dirf) := by
  simp [Statement, Instr.wellFormed, opcodeTable, Instr.mnemonic, OpcodeRow.matches, encodeCtl, mask_free]
theorem decode (step : StepField) (dirf : DirField) : Statement (.decode step dirf) := by
  simp [Statement, Instr.wellFormed, opcodeTable, Instr.mnemonic, OpcodeRow.matches, encodeCtl, mask_free]
theorem moveLatStay (step : StepField) : Statement (.moveLatStay step) := by
  simp [Statement, Instr.wellFormed, opcodeTable, Instr.mnemonic, OpcodeRow.matches, encodeCtl, mask_fixed]
theorem moveLatNorth (step : StepField) : Statement (.moveLatNorth step) := by
  simp [Statement, Instr.wellFormed, opcodeTable, Instr.mnemonic, OpcodeRow.matches, encodeCtl, mask_fixed]
theorem moveLatSouth (step : StepField) : Statement (.moveLatSouth step) := by
  simp [Statement, Instr.wellFormed, opcodeTable, Instr.mnemonic, OpcodeRow.matches, encodeCtl, mask_fixed]
theorem moveLonStay (step : StepField) : Statement (.moveLonStay step) := by
  simp [Statement, Instr.wellFormed, opcodeTable, Instr.mnemonic, OpcodeRow.matches, encodeCtl, mask_fixed]
theorem moveLonEast (step : StepField) : Statement (.moveLonEast step) := by
  simp [Statement, Instr.wellFormed, opcodeTable, Instr.mnemonic, OpcodeRow.matches, encodeCtl, mask_fixed]
theorem moveLonWest (step : StepField) : Statement (.moveLonWest step) := by
  simp [Statement, Instr.wellFormed, opcodeTable, Instr.mnemonic, OpcodeRow.matches, encodeCtl, mask_fixed]
theorem neighbors (step : StepField) (dirf : DirField) : Statement (.neighbors step dirf) := by
  simp [Statement, Instr.wellFormed, opcodeTable, Instr.mnemonic, OpcodeRow.matches, encodeCtl, mask_free]
theorem coalesce (step : StepField) (dirf : DirField) : Statement (.coalesce step dirf) := by
  simp [Statement, Instr.wellFormed, opcodeTable, Instr.mnemonic, OpcodeRow.matches, encodeCtl, mask_free]

end Sys2Proof.Laws.EncodesItsRow
end

