-- ==== Sys2Proof/Machine/Listing.lean ====
section
/-! DEFINITION. The listing form of transactions (R58).  It is notation only: no meaning reads it.
DESIGN CHOICE (log entry 23): words are spelled in hexadecimal and coordinates by their bit pattern, where
R58 allows decimal spellings too. -/

namespace Sys2Proof.Machine

/-- A u64 or u32 in a listing: `0x` and its hexadecimal digits (R58). -/
def listWord (w : Nat) : String := "0x" ++ String.ofList ((Nat.toDigits 16 w).map Char.toUpper)

/-- A coordinate in a listing, by its bit pattern (R58). -/
def listCoordinate (w : Word) : String := "f64:" ++ listWord w.toNat

/-- `step` in a listing, a decimal integer written last (R58). -/
def listStep (step : StepField) : String := String.ofList (Nat.toDigits 10 step.toNat)

/-- `dir` in a listing (R58). -/
def listDirection : Direction → String
  | .stay => "0"
  | .plus => "+1"
  | .minus => "-1"

/-- The mnemonic and operands of a MOVE (R58). -/
def listMove (name : String) (d : Direction) (step : StepField) (q : Request) : String :=
  name ++ " " ++ listWord q.a[0].toNat ++ ", " ++ listDirection d ++ ", " ++ listStep step

/-- A request as `MNEMONIC operands`, from the operation its control word selects (R58). -/
def listRequest (i : Instr) (q : Request) : String :=
  match i with
  | .interleave _ _ =>
    "INTERLEAVE " ++ listWord (q.a[0].toNat % 2 ^ 32) ++ ", " ++ listWord (q.a[1].toNat % 2 ^ 32)
  | .deinterleave _ _ => "DEINTERLEAVE " ++ listWord q.a[0].toNat
  | .encode step _ =>
    "ENCODE " ++ listCoordinate q.a[0] ++ ", " ++ listCoordinate q.a[1] ++ ", " ++ listStep step
  | .decode step _ => "DECODE " ++ listWord q.a[0].toNat ++ ", " ++ listStep step
  | .moveLatStay step => listMove "MOVE_LAT" .stay step q
  | .moveLatNorth step => listMove "MOVE_LAT" .plus step q
  | .moveLatSouth step => listMove "MOVE_LAT" .minus step q
  | .moveLonStay step => listMove "MOVE_LON" .stay step q
  | .moveLonEast step => listMove "MOVE_LON" .plus step q
  | .moveLonWest step => listMove "MOVE_LON" .minus step q
  | .neighbors step _ => "NEIGHBORS " ++ listWord q.a[0].toNat ++ ", " ++ listStep step
  | .coalesce _ _ => "COALESCE " ++ ",".intercalate (q.a.toList.map fun w => listWord w.toNat)

/-- An error response in a listing; none for a success (R58). -/
def listError (x : Response) : Option String :=
  match x.status with
  | 1#3 => some "!OutOfRange"
  | 2#3 => some "!UnsupportedPrecision"
  | 3#3 => some "!OutOfRange+UnsupportedPrecision"
  | 4#3 => some "!IllegalOp"
  | _ => none

/-- COALESCE's intervals in a listing (R58). -/
def listIntervals (x : Response) : String :=
  " ".intercalate <| (List.range x.count.toNat).map fun k =>
    "[" ++ listWord (x.r.toList.getD k 0).toNat ++ "," ++ listWord (x.h.toList.getD k 0).toNat ++ ")"

/-- The results of an operation in a listing: intervals for COALESCE, coordinates for DECODE, and
words for the others (R52, R58). -/
def listResults (i : Instr) (x : Response) : String :=
  match i with
  | .coalesce _ _ => listIntervals x
  | .decode _ _ => ", ".intercalate ((x.r.toList.take x.count.toNat).map listCoordinate)
  | _ => ", ".intercalate ((x.r.toList.take x.count.toNat).map fun w => listWord w.toNat)

/-- A transaction as `MNEMONIC operands -> results`, or `-> ` and its errors (R58). -/
def listTransaction (i : Instr) (q : Request) (x : Response) : String :=
  listRequest i q ++ " -> " ++ (listError x).getD (listResults i x)

end Sys2Proof.Machine
end

