-- ==== Sys2Proof/Tests/Slice0.lean ====
section
/-! SUPPORT. The model's own tests.  Expected values are the spec's (spec/95_test_vectors.md, and the
encodings of spec/30_encoding.md written out bit by bit), never the model's own answers.  The last part
gives, for every statement with hypotheses, a state and operands that meet them. -/

open Sys2Proof Sys2Proof.Machine

namespace Sys2Proof.Tests

/-- A request with the given control word and first operand words. -/
def req (c : Ctl) (ws : List Word) : Request := ⟨c, vec9 0 ws⟩

/-- The reset state with one request accepted and due. -/
def holding (q : Request) : State := { State.reset with pending := [⟨q, 0⟩] }

/-- The responses waiting after one clock edge from the reset state with that request due. -/
def answers (c : Ctl) (ws : List Word) : List Response :=
  match step (holding (req c ws)) with
  | .next t => t.ready
  | _ => []

/-- A successful response of the given words. -/
def words (n : BitVec 4) (ws : List Word) : Response := ⟨0, n, vec9 0 ws, noBounds⟩

/-! ### Well-formedness: each check refuses an ill-formed term -/

theorem test_status_check_refuses_101 :
    Response.statusLegal { Response.zero with status := 0b101 } = false := by decide
theorem test_count_check_refuses_ten :
    Response.countLegal { Response.zero with count := 10 } = false := by decide
theorem test_count_check_refuses_success_without_result :
    Response.countLegal Response.zero = false := by decide
theorem test_tail_check_refuses_word_beyond_count :
    Response.tailZero { Response.zero with count := 1, r := vec9 0 [5, 5] } = false := by decide
theorem test_tail_check_refuses_bound_beyond_count :
    Response.tailZero { Response.zero with count := 1, h := vec9 0 [8, 1] } = false := by decide
theorem test_response_of_scenario_3_is_well_formed :
    Response.wellFormed ⟨0, 1, vec9 0 [7], vec9 0 [8]⟩ = true := by decide
theorem test_operation_is_well_formed :
    Instr.wellFormed (.moveLatNorth 0xFF) = true := by decide +kernel

/-! ### Decoding: one word per constructor, written from R47, R48, R50, as step, rsv, dirf, op -/

theorem test_decode_interleave :
    decodeCtl 0b11111111_00_11_0000 = .ok (.interleave 0xFF 3) := by decide
theorem test_decode_deinterleave :
    decodeCtl 0b00101010_00_01_0001 = .ok (.deinterleave 0x2A 1) := by decide
theorem test_decode_encode : decodeCtl 0b00001010_00_01_0010 = .ok (.encode 10 1) := by decide
theorem test_decode_decode : decodeCtl 0b00011010_00_00_0011 = .ok (.decode 26 0) := by decide
theorem test_decode_move_lat_stay : decodeCtl 0b00001010_00_00_0100 = .ok (.moveLatStay 10) := by
  decide
theorem test_decode_move_lat_north : decodeCtl 0b00001010_00_01_0100 = .ok (.moveLatNorth 10) := by
  decide
theorem test_decode_move_lat_south : decodeCtl 0b00001010_00_11_0100 = .ok (.moveLatSouth 10) := by
  decide
theorem test_decode_move_lon_stay : decodeCtl 0b00000101_00_00_0101 = .ok (.moveLonStay 5) := by
  decide
theorem test_decode_move_lon_east : decodeCtl 0b00000101_00_01_0101 = .ok (.moveLonEast 5) := by
  decide
theorem test_decode_move_lon_west : decodeCtl 0b00100001_00_11_0101 = .ok (.moveLonWest 33) := by
  decide
theorem test_decode_neighbors : decodeCtl 0b00001010_00_10_0110 = .ok (.neighbors 10 2) := by decide
theorem test_decode_coalesce : decodeCtl 0b00000000_00_00_0111 = .ok (.coalesce 0 0) := by decide
theorem test_decode_refuses_direction_10 :
    decodeCtl 0b00001010_00_10_0101 = .error .reservedDirection := by decide
theorem test_decode_refuses_reserved_bits :
    decodeCtl 0b00001010_10_00_0010 = .error .reservedBits := by decide
theorem test_decode_refuses_reserved_op :
    decodeCtl 0b00001010_00_00_1100 = .error .reservedOp := by decide
theorem test_table_word_reads_low_bits :
    decodeTableWord 8 0b00_11_0101 = some (.moveLonWest 0) := by decide
theorem test_fetch_word_runs_first :
    (match step (State.reset.withFetchWord 16 0x0A0B) with
      | .next t => t.ready | _ => []) = [⟨0b100, 0, vec9 0 [], noBounds⟩] := by decide

/-! ### Meanings: at most two per operation, from spec/95_test_vectors.md -/

/-- Section 2.1, row 13. -/
theorem test_interleave : answers 0x0000 [0x12345678, 0xDEADBEEF] =
    [words 1 [0xA3AC8DB29BBCBDEA]] := by decide +kernel
/-- Section 2.1, last row: the upper halves of the operand words are ignored. -/
theorem test_interleave_ignores_upper_halves :
    answers 0xFF30 [0xFFFFFFFF00000001, 0xABCDEF0100000000] = [words 1 [1]] := by decide +kernel
/-- Section 2.1. -/
theorem test_deinterleave : answers 0x0001 [0x0123456789ABCDEF] =
    [words 2 [0x11BB11BB, 0x0505AFAF]] := by decide +kernel
/-- Section 2.2: one unit in the last place below a grid line of step 32. -/
theorem test_encode_below_grid_line : answers 0x2002 [0xC0367FDE17EC0001, 0] =
    [words 1 [0x9400000005000540]] := by decide +kernel
/-- Section 2.2: the clamp at full width. -/
theorem test_encode_clamps_upper_bounds : answers 0x2002 [0x4056800000000000, 0x4066800000000000] =
    [words 1 [0xFFFFFFFFFFFFFFFF]] := by decide +kernel
/-- Section 2.3, row 11. -/
theorem test_decode : answers 0x1A03 [0x000D0139DF00E312] =
    [words 4 [0x40486DA502000000, 0x40486DA518800000, 0x4002D14BD0000000, 0x4002D14EA0000000]] := by
  decide +kernel
/-- Section 2.3: bits 10 and above are masked. -/
theorem test_decode_masks_code : answers 0x0503 [0xFFFFFFFFFFFFFFFF] =
    [words 4 [0x4055180000000000, 0x4056800000000000, 0x4065180000000000, 0x4066800000000000]] := by
  decide +kernel
/-- Section 2.4: `dir = 0` returns the masked code. -/
theorem test_move_lat_stay : answers 0x0504 [0xFFFFFFFFFFFFFD55] = [words 1 [0x155]] := by
  decide +kernel
/-- Section 2.4: the latitude wraps, the longitude is kept. -/
theorem test_move_lat_north : answers 0x0A14 [0x7FFFF] = [words 1 [0x2AAAA]] := by decide +kernel
/-- Section 2.4: the borrow passes the longitude bits. -/
theorem test_move_lat_south : answers 0x0A34 [0xC0000] = [words 1 [0x95555]] := by decide +kernel
/-- R89: the identity on a canonical code. -/
theorem test_move_lon_stay : answers 0x0A05 [0xC0000] = [words 1 [0xC0000]] := by decide +kernel
/-- Section 2.4: the antimeridian at the grid corner. -/
theorem test_move_lon_east : answers 0x0515 [0x3FF] = [words 1 [0x155]] := by decide +kernel
/-- Section 2.4: the west wrap at full width. -/
theorem test_move_lon_west : answers 0x2035 [0] = [words 1 [0xAAAAAAAAAAAAAAAA]] := by decide +kernel
/-- Section 2.4, first row of NEIGHBORS. -/
theorem test_neighbors : answers 0x0A06 [0xC0000] =
    [words 9 [0xC0001, 0xC0003, 0xC0002, 0x95557, 0x95555, 0x3FFFF, 0x6AAAA, 0x6AAAB, 0xC0000]] := by
  decide +kernel
/-- Section 2.4: `step = 1`, duplicates kept. -/
theorem test_neighbors_step_one : answers 0x0106 [3] = [words 9 [2, 0, 1, 0, 2, 0, 1, 0, 3]] := by
  decide +kernel
/-- T-S4 of section 1.1. -/
theorem test_coalesce_two_runs : answers 0x0007 [10, 11, 12, 50, 51, 7, 8, 9, 49] =
    [⟨0, 2, vec9 0 [7, 49], vec9 0 [13, 52]⟩] := by decide +kernel
/-- Section 2.5, row 11: the top of the range does not wrap to 0. -/
theorem test_coalesce_top_of_range : answers 0x0007
    [0xFFFFFFFFFFFFFFFF, 0xFFFFFFFFFFFFFFFE, 0xFFFFFFFFFFFFFFFD, 0, 1, 2, 5, 5, 5] =
    [⟨0, 3, vec9 0 [0, 5, 0xFFFFFFFFFFFFFFFD], vec9 0 [3, 6, 0x10000000000000000]⟩] := by
  decide +kernel
/-- Section 2.2: both errors. -/
theorem test_encode_reports_both_errors : answers 0x2802 [0, 0xC066A00000000000] =
    [⟨0b011, 0, vec9 0 [], noBounds⟩] := by decide +kernel
/-- Section 2.6: an illegal word validates no operand. -/
theorem test_illegal_word_validates_no_operand : answers 0x0A42 [0x4056C00000000000] =
    [⟨0b100, 0, vec9 0 [], noBounds⟩] := by decide +kernel

/-- The listing examples of R58, with the coordinate and the codes in the spellings R58 allows. -/
theorem test_listing_of_a_move :
    listTransaction (.moveLatNorth 10) (req 0x0A14 [0xC0000]) (words 1 [0xC0001]) =
      "MOVE_LAT 0xC0000, +1, 10 -> 0xC0001" := by decide +kernel
theorem test_listing_of_errors : listError ⟨0b011, 0, vec9 0 [], noBounds⟩ =
    some "!OutOfRange+UnsupportedPrecision" := by decide

/-! ### Witnesses: a state and operands that meet the hypotheses of each statement -/

/-- 90.0, 180.0, 91.0 and 0.0 as binary64 words (section 2.2). -/
def w90 : Word := 0x4056800000000000
def w180 : Word := 0x4066800000000000
def w91 : Word := 0x4056C00000000000

theorem legal_lat_90 : legalCoordinate .lat w90 := (inDomain_iff _ _).1 (by decide +kernel)
theorem legal_lon_180 : legalCoordinate .lon w180 := (inDomain_iff _ _).1 (by decide +kernel)
theorem legal_zero (ax : Axis) : legalCoordinate ax 0 :=
  (inDomain_iff _ _).1 (by cases ax <;> decide +kernel)
theorem illegal_lat_91 : ¬ legalCoordinate .lat w91 := fun h =>
  absurd ((inDomain_iff _ _).2 h) (by decide +kernel)
theorem legal_steps : legalStep 1 ∧ legalStep 32 ∧ ¬ legalStep 0 ∧ ¬ legalStep 33 := by
  simp [legalStep]

/-- A state at whose next edge a response is taken and a request accepted. -/
def busy : State :=
  { State.reset with
    reqReady := true
    rspValid := true
    ready := [words 1 [7]]
    host := [⟨false, true, req 0x0A02 [], true⟩] }

/-- A state that holds an answered request, its host resetting, or idle, or offering a request. -/
def answered (p : Pins) : State :=
  { State.reset with
    rspValid := true
    ready := [respond (req 0x0001 [3])]
    accepted := [req 0x0001 [3]]
    host := [p, p] }

theorem witness_EncodeAfterDecodeIsIdentity : decodeCtl 0x0A14 = .ok (.moveLatNorth 10) := by decide
theorem witness_DecoderIsTheOpcodeTable :
    (∃ row ∈ opcodeTable, row.matches 0xFF30 = true) ∧
    (∀ row ∈ opcodeTable, row.matches 0x0008 = false) := by decide
theorem witness_IllegalOpRaisedExactly :
    (∀ q, (holding q).pending = [⟨q, 0⟩]) ∧ illegalCtl 0x0008 ∧ illegalCtl 0x0040 ∧
      illegalCtl 0x0024 ∧ illegalCtl 0x0025 ∧ ¬ illegalCtl 0x0026 ∧ ¬ illegalCtl 0x0007 :=
  ⟨fun _ => rfl, by unfold illegalCtl; decide⟩
theorem witness_IgnoredFieldsHaveNoEffect :
    decodeCtl 0x0000 = .ok (.interleave 0 0) ∧ decodeCtl 0xFF30 = .ok (.interleave 255 3) ∧
    decodeCtl 0x0001 = .ok (.deinterleave 0 0) ∧ decodeCtl 0x2A11 = .ok (.deinterleave 42 1) ∧
    decodeCtl 0x0A02 = .ok (.encode 10 0) ∧ decodeCtl 0x0A12 = .ok (.encode 10 1) ∧
    decodeCtl 0x0A03 = .ok (.decode 10 0) ∧ decodeCtl 0x0A33 = .ok (.decode 10 3) ∧
    decodeCtl 0x0A35 = .ok (.moveLonWest 10) ∧
    decodeCtl 0x0A06 = .ok (.neighbors 10 0) ∧ decodeCtl 0x0A26 = .ok (.neighbors 10 2) ∧
    decodeCtl 0x0007 = .ok (.coalesce 0 0) ∧ decodeCtl 0xFF37 = .ok (.coalesce 255 3) ∧
    rsvField 0x0040 ≠ 0 := by decide
theorem witness_StepRunsTheDecodedRequest :
    (holding (req 0x0007 [])).pins.rst = false ∧
    (holding (req 0x0007 [])).portEvents.due = some (req 0x0007 []) ∧
    decodeCtl (req 0x0007 []).ctl = .ok (.coalesce 0 0) := by decide
theorem witness_StepAnswersAnIllegalRequest :
    (holding (req 0x0A24 [])).pins.rst = false ∧
    (holding (req 0x0A24 [])).portEvents.pending = [⟨req 0x0A24 [], 0⟩] ∧
    illegalCtl (req 0x0A24 []).ctl := by unfold illegalCtl; decide
theorem witness_ResetEdgeEmptiesTheQueue :
    (answered ⟨true, true, req 0 [], true⟩).pins.rst = true := by decide
theorem witness_TransfersFollowTheHandshake :
    busy.pins.rst = false ∧ (∃ t, step busy = .next t) ∧ busy.pins.reqValid = true ∧
    busy.reqReady = true ∧ busy.rspValid = true ∧ busy.pins.rspReady = true :=
  ⟨rfl, by
    cases h : busy.portEvents.due with
    | none => exact ⟨_, by rw [step, if_neg (by decide), h]⟩
    | some q =>
      obtain ⟨rest, hp⟩ := State.due_eq_some.1 h
      have hq := runRequest_cons hp
      simp only at hq
      exact ⟨_, by rw [step, if_neg (by decide), h]; simp only; rw [hq]; rfl⟩, rfl, rfl, rfl, rfl⟩
theorem witness_ResponseHeldUntilTaken :
    (answered Pins.idle).rspValid = true ∧ (answered Pins.idle).ready ≠ [] ∧
    (answered Pins.idle).pins.rst = false ∧ (answered Pins.idle).pins.rspReady = false :=
  ⟨rfl, by simp [answered], rfl, rfl⟩
theorem witness_RequestOfferedUntilAccepted :
    let s := answered ⟨false, true, req 0 [], false⟩
    s.hostKeepsRequest ∧ s.pins.rst = false ∧ s.pins.reqValid = true ∧ s.reqReady = false ∧
      ∃ t, step s = .next t :=
  ⟨fun _ _ _ => ⟨_, [], rfl, rfl, rfl⟩, rfl, rfl, rfl, _, rfl⟩
theorem answered_interfaceOk (p : Pins) : (answered p).interfaceOk := by
  refine ⟨by simp [answered], ?_, by simp [answered, State.reset]⟩
  simp [answered, State.inFlight, State.reset, Config.depth]
theorem witness_StepKeepsTheInterfaceInvariant :
    (answered Pins.idle).interfaceOk ∧ ∃ t, step (answered Pins.idle) = .next t :=
  ⟨answered_interfaceOk _, _, rfl⟩
theorem witness_StepKeepsResponsesWellFormed :
    (answered Pins.idle).responsesOk ∧ ∃ t, step (answered Pins.idle) = .next t := by
  refine ⟨⟨?_, by simp [answered, State.reset]⟩, _, rfl⟩
  simp only [answered, List.mem_singleton, forall_eq]
  decide +kernel
theorem witness_StepKeepsTheRecordInOrder :
    (answered Pins.idle).recordOk ∧ (answered Pins.idle).accepted ≠ [] ∧
      ∃ t, step (answered Pins.idle) = .next t :=
  ⟨rfl, by simp [answered], _, rfl⟩
/-- Meets the hypotheses of every statement whose only ones are a pending request. -/
theorem witness_OldestRequest :
    (holding (req 0x0A02 [])).pending = ⟨req 0x0A02 [], 0⟩ :: [] := rfl
/-- A host that takes a response at every second edge only, and requests at every edge. -/
def lazyHost : Nat → List Pins
  | 0 => []
  | n + 1 => ⟨false, true, req 0 [], false⟩ :: ⟨false, true, req 0 [], true⟩ :: lazyHost n
theorem witness_AcceptedRequestsAreAnsweredInFiniteTime (n : Nat) :
    (answered Pins.idle).interfaceOk ∧ (∀ p ∈ lazyHost n, p.rst = false) ∧
    n ≤ (lazyHost n).countP (·.rspReady) ∧ (lazyHost n).length = 2 * n := by
  refine ⟨answered_interfaceOk _, ?_, ?_, ?_⟩ <;> induction n <;> simp_all [lazyHost] <;> omega
theorem witness_RequestPortBecomesReadyInFiniteTime (n : Nat) :
    State.reset.interfaceOk ∧ State.reset.inFlight < Config.depth ∧
    ∀ p ∈ List.replicate n Pins.idle, p.offersNothing :=
  ⟨by simp [State.interfaceOk, State.reset, State.inFlight],
    by simp [State.reset, State.inFlight, Config.depth], fun p hp => by
    rw [List.eq_of_mem_replicate hp]; exact ⟨rfl, rfl⟩⟩
theorem witness_OfferedRequestIsAcceptedInFiniteTime (n : Nat) (q : Request) :
    (answered Pins.idle).interfaceOk ∧
    ∀ p ∈ List.replicate n (⟨false, true, q, true⟩ : Pins),
      p.takesResponses ∧ p.reqValid = true ∧ p.req = q :=
  ⟨answered_interfaceOk _, fun p hp => by
    rw [List.eq_of_mem_replicate hp]; exact ⟨⟨rfl, rfl⟩, rfl, rfl⟩⟩
theorem witness_ErrorBitsRaisedExactly :
    (Instr.encode 33 0).readsCoordinates = true ∧ ¬ legalCoordinate .lat w91 ∧
    (Instr.neighbors 0 0).precision = some 0 ∧ ¬ legalStep 0 ∧
    (holding (req 0x0A02 [w91])).pending = [⟨req 0x0A02 [w91], 0⟩] :=
  ⟨rfl, illegal_lat_91, rfl, legal_steps.2.2.1, rfl⟩
theorem witness_EncodeReportsBothErrors :
    ¬ (legalCoordinate .lat (req 0 [w91]).a[0] ∧ legalCoordinate .lon (req 0 [w91]).a[1]) ∧
    ¬ ¬ (legalCoordinate .lat (req 0 [w90, w180]).a[0] ∧
      legalCoordinate .lon (req 0 [w90, w180]).a[1]) ∧
    ¬ legalStep 0 ∧ ¬ legalStep 33 ∧ legalStep 32 :=
  ⟨fun h => illegal_lat_91 h.1, fun h => h ⟨legal_lat_90, legal_lon_180⟩, legal_steps.2.2.1,
    legal_steps.2.2.2, legal_steps.2.1⟩
theorem witness_NoFailureIsPartial :
    (answers 0x0008 []).map Response.status = [4] ∧ (answers 0x0007 []).map Response.status = [0] := by
  decide +kernel
theorem witness_InterleaverRoundTrip :
    (respond (requestOf (.interleave 0 0) [3, 5])).r[0] = 0x27 ∧
    (respond (requestOf (.deinterleave 0 0) [3])).r[0] = 1 ∧
    (respond (requestOf (.deinterleave 0 0) [3])).r[1] = 1 := by decide +kernel
theorem witness_InterleaveAndOrder : (32 : Nat) ≤ 32 ∧ (3 : Index) < 4 := by decide
theorem witness_EncodeResult :
    (holding (req 0x2002 [w90, w180])).pending = [⟨req 0x2002 [w90, w180], 0⟩] ∧
    legalStep 32 ∧ legalStep 1 ∧ legalCoordinate .lat (req 0x2002 [w90, w180]).a[0] ∧
    legalCoordinate .lon (req 0x2002 [w90, w180]).a[1] :=
  ⟨rfl, legal_steps.2.1, legal_steps.1, legal_lat_90, legal_lon_180⟩
theorem witness_CellOfAValueIsUnique : inCell 0 .lat 1 1 ∧ inCell 90 .lat 1 1 := by
  refine ⟨⟨by decide, ?_, .inl ?_⟩, by decide, ?_, .inr ⟨rfl, rfl⟩⟩ <;>
    norm_num [bound, Config.axisMin, Config.axisRange]
theorem witness_ClampActsOnTheMaximumOnly :
    Config.axisMin .lat ≤ 90 ∧ (90 : ℚ) ≤ Config.axisMax .lat ∧ (90 : ℚ) = Config.axisMax .lat ∧
    Config.axisMin .lon ≤ 90 ∧ (90 : ℚ) < Config.axisMax .lon := by
  norm_num [Config.axisMin, Config.axisMax]
theorem witness_QuantizerLaws :
    Config.axisMin .lat ≤ 90 ∧ (90 : ℚ) ≤ Config.axisMax .lat ∧ (1 : Nat) ≤ 31 ∧ (31 : Nat) < 32 ∧
    legalCoordinate .lat w90 ∧ legalCoordinate .lon w180 :=
  ⟨by norm_num [Config.axisMin], by norm_num [Config.axisMax], by decide, by decide, legal_lat_90,
    legal_lon_180⟩
theorem witness_IntegerQuantizerIsExact : legalCoordinate .lat w90 ∧ (1 : Nat) ≤ 32 :=
  ⟨legal_lat_90, by decide⟩
/-- Meets the hypotheses of DecodeResult, MoveLatResult, MoveLonResult and NeighborsResult. -/
theorem witness_CodeOperationsAtTheEndsOfPrecision :
    (holding (req 0x2003 [0])).pending = [⟨req 0x2003 [0], 0⟩] ∧ legalStep 1 ∧ legalStep 32 ∧
    (Instr.moveLatSouth 32, (-1 : Int)) ∈
      [(Instr.moveLatStay 32, (0 : Int)), (.moveLatNorth 32, 1), (.moveLatSouth 32, -1)] ∧
    (Instr.moveLonWest 32, (-1 : Int)) ∈
      [(Instr.moveLonStay 32, (0 : Int)), (.moveLonEast 32, 1), (.moveLonWest 32, -1)] :=
  ⟨rfl, legal_steps.1, legal_steps.2.1, by simp, by simp⟩
theorem witness_DecodeAnswersPlainNumbers :
    (3 : Nat) < 4 ∧ legalStep 32 ∧ (respond (requestOf (.decode 1 0) [1])).r[0] = 0 ∧
    (respond (requestOf (.decode 1 0) [1])).r[1] ≠ 0 :=
  ⟨by decide, legal_steps.2.1, by decide +kernel, by decide +kernel⟩
theorem witness_F64EncodingInvertsValue :
    f64Class 0x8000000000000001 = .finite ∧ (0x8000000000000001 : Word) ≠ 0x8000000000000000 := by
  decide +kernel
theorem witness_EncodedPointLiesInItsBox :
    legalStep 5 ∧ legalCoordinate .lat w90 ∧ legalCoordinate .lon 0 ∧
    (respond (requestOf (.encode 5 0) [w90, w180])).r[0] = 0x3FF ∧ f64Val 0 ≠ 90 :=
  ⟨by simp [legalStep], legal_lat_90, legal_zero .lon, by decide +kernel, by decide +kernel⟩
theorem witness_BoxIsTheInverseImageOfItsCode :
    legalStep 5 ∧ canonical 0x3FF (5 : StepField).toNat ∧ legalCoordinate .lat w90 ∧
    legalCoordinate .lon w180 ∧
    f64Val (respond (requestOf (.decode 5 0) [0])).r[1] ≠ 90 ∧
    f64Val (respond (requestOf (.decode 5 0) [0])).r[3] ≠ 180 :=
  ⟨by simp [legalStep], by simp [canonical], legal_lat_90, legal_lon_180, by decide +kernel,
    by decide +kernel⟩
theorem witness_MovesWrapAtTheGridEdge :
    (1 : Nat) ≤ 32 ∧ (0xFFFFFFFF : Index).toNat < 2 ^ 32 ∧ (0 : Index).toNat < 2 ^ 1 := by decide
/-- Meets the hypotheses of every statement about a canonical code at a precision from 1 to 32. -/
theorem witness_CanonicalCode :
    canonical 0xFFFFFFFFFFFFFFFF 32 ∧ canonical 3 1 ∧ canonical 0x3FF 5 := by simp [canonical]
theorem witness_CoalesceDependsOnTheSetOfCodes (w : Word) :
    w ∈ (req 7 [1, 1, 2]).a.toList ↔ w ∈ (req 7 [2, 1]).a.toList := by
  have h₁ : (req 7 [1, 1, 2]).a.toList = [1, 1, 2, 0, 0, 0, 0, 0, 0] := by decide
  have h₂ : (req 7 [2, 1]).a.toList = [2, 1, 0, 0, 0, 0, 0, 0, 0] := by decide
  rw [h₁, h₂]; simp; tauto
theorem witness_CoalescedIntervalsAreUnique :
    let is : List Interval := [⟨0, 1⟩]
    (∀ iv ∈ is, iv.lo.toNat < iv.hi.toNat) ∧
    is.Pairwise (fun a b => a.hi.toNat < b.lo.toNat) ∧
    (∀ c : Nat, (∃ iv ∈ is, iv.holds c) ↔ ∃ w ∈ (req 7 []).a.toList, w.toNat = c) := by
  have h : (req 7 []).a.toList = List.replicate 9 0 := by decide
  refine ⟨by simp, by simp, fun c => ?_⟩
  rw [h]
  simp [Interval.holds]
  omega
theorem witness_CoalescedIntervalSizes :
    0 < (coalesceResponse (req 7 [])).count.toNat ∧
    8 < (coalesceResponse (req 7 [0, 2, 4, 6, 8, 10, 12, 14, 16])).count.toNat := by decide +kernel
theorem witness_NeighborRangesCoverTheBlock : legalStep 1 ∧ legalStep 32 :=
  ⟨legal_steps.1, legal_steps.2.1⟩
theorem witness_QueryStopsAtTheFirstError :
    ¬ (legalCoordinate .lat w91 ∧ legalCoordinate .lon 0 ∧ legalStep 1) ∧
    (legalCoordinate .lat w90 ∧ legalCoordinate .lon w180 ∧ legalStep 32) :=
  ⟨fun h => illegal_lat_91 h.1, legal_lat_90, legal_lon_180, legal_steps.2.1⟩

end Sys2Proof.Tests
end

/-! PROOFS. The statements about the block's scope (spec/00_scope.md): a response is a result or an
error, never a part of each (R14, R116), and `f64enc` inverts `f64val` (R17). -/

namespace Sys2Proof

/-! ### What a response can be -/

/-- The three forms of a response: status bits alone, one to nine result words, or one to nine
intervals (R14, R52, R111, R116). -/
inductive Response.IsAnswer : Response → Prop where
  /-- Errors: at least one of the bits that can occur (R114), and nothing else. -/
  | raised {flags : BitVec 3} (hne : flags ≠ 0#3) (hle : flags.toNat ≤ 4) :
    IsAnswer (.raised flags)
  /-- Success of every operation but COALESCE. -/
  | ofWords {ws : List Word} (hpos : 0 < ws.length) (hle : ws.length ≤ 9) : IsAnswer (.ofWords ws)
  /-- Success of COALESCE. -/
  | ofIntervals {is : List Interval} (hpos : 0 < is.length) (hle : is.length ≤ 9) :
    IsAnswer (.ofIntervals is)

/-- Taking an error answers one of the three forms when the result does (R14). -/
theorem Response.isAnswer_orRaise {flags : BitVec 3} {x : Response} (hle : flags.toNat ≤ 4)
    (hx : x.IsAnswer) : (Response.orRaise flags x).IsAnswer := by
  by_cases hne : flags = 0#3
  · rw [hne, Response.orRaise_zero]
    exact hx
  · rw [Response.orRaise_of_ne hne]
    exact .raised hne hle

/-- The precision check raises `UnsupportedPrecision` or nothing (R110). -/
theorem precisionFlag_toNat_le (step : StepField) : (precisionFlag step).toNat ≤ 4 := by
  unfold precisionFlag
  split <;> decide

/-- ENCODE's checks raise `OutOfRange`, `UnsupportedPrecision`, both or nothing (R74, R114). -/
theorem encodeFlags_toNat_le (step : StepField) (latWord lonWord : Word) :
    (encodeFlags step latWord lonWord).toNat ≤ 4 := by
  unfold encodeFlags domainFlag precisionFlag
  split <;> split <;> decide

/-- The scan ends with the interval that is open (R102). -/
theorem scanCodes_length_pos (lo : Word) (hi : Hi) (l : List Word) :
    0 < (scanCodes lo hi l).length := by
  induction l generalizing lo hi with
  | nil => simp [scanCodes]
  | cons c cs ih =>
    unfold scanCodes
    split_ifs
    · exact ih _ _
    · exact ih _ _
    · simp

/-- Some code, some interval (R102). -/
theorem coalesceCodes_length_pos {l : List Word} (h : 0 < l.length) :
    0 < (coalesceCodes l).length := by
  have hlen := (sortCodes_perm l).length_eq
  unfold coalesceCodes
  split
  · next hs => simp [hs] at hlen; omega
  · exact scanCodes_length_pos _ _ _

namespace Machine

/-- A MOVE answers its precision error or one code (R90, R91). -/
theorem moveResponse_isAnswer (ax : Axis) (d : Direction) (step : StepField) (q : Request) :
    (moveResponse ax d step q).IsAnswer :=
  Response.isAnswer_orRaise (precisionFlag_toNat_le step) (.ofWords (by simp) (by simp))

/-- Every operation answers a request with one of the three forms (R52, R116). -/
theorem responseOf_isAnswer (i : Instr) (q : Request) : (responseOf i q).IsAnswer := by
  cases i with
  | interleave | deinterleave => exact .ofWords (by simp) (by simp)
  | encode step d =>
    exact Response.isAnswer_orRaise (encodeFlags_toNat_le step _ _) (.ofWords (by simp) (by simp))
  | decode step d =>
    exact Response.isAnswer_orRaise (precisionFlag_toNat_le step)
      (.ofWords (by simp [cellBounds]) (by simp [cellBounds]))
  | moveLatStay | moveLatNorth | moveLatSouth | moveLonStay | moveLonEast | moveLonWest =>
    exact moveResponse_isAnswer _ _ _ q
  | neighbors step d =>
    exact Response.isAnswer_orRaise (precisionFlag_toNat_le step)
      (.ofWords (by simp [neighborCodes]) (by simp [neighborCodes]))
  | coalesce step d =>
    exact .ofIntervals (coalesceCodes_length_pos (by simp))
      ((coalesceCodes_length_le _).trans (by simp))

/-- Every request is answered with one of the three forms, an illegal control word with
`IllegalOp` alone (R54, R116). -/
theorem responseTo_isAnswer (q : Request) : (responseTo q).IsAnswer := by
  unfold responseTo
  split
  · exact .raised (by decide) (by decide)
  · exact responseOf_isAnswer _ q

end Machine

/-! ### No failure is partial -/

/-- A response with a result and no error, or with an error and nothing else (R14, R116). -/
def Response.AllOrNothing (x : Response) : Prop :=
  (x.status ≠ 0#3 →
    x.count = 0#4 ∧ x.r = #v[0, 0, 0, 0, 0, 0, 0, 0, 0] ∧ x.h = noBounds) ∧
  (x.status = 0#3 → x.count ≠ 0#4)

/-- A count of one to nine survives the four bits of `count` (R21). -/
theorem ofNat_count_ne_zero {n : Nat} (hpos : 0 < n) (hle : n ≤ 9) : BitVec.ofNat 4 n ≠ 0#4 := by
  intro h
  have := congrArg BitVec.toNat h
  simp only [BitVec.toNat_ofNat] at this
  omega

/-- None of the three forms is partial: a raised response has no result, the other two no error. -/
theorem Response.IsAnswer.allOrNothing {x : Response} (hx : x.IsAnswer) : x.AllOrNothing := by
  cases hx with
  | raised hne _ => exact ⟨fun _ => ⟨rfl, rfl, rfl⟩, fun h => absurd h hne⟩
  | ofWords hpos hle => exact ⟨fun h => absurd rfl h, fun _ => ofNat_count_ne_zero hpos hle⟩
  | ofIntervals hpos hle => exact ⟨fun h => absurd rfl h, fun _ => ofNat_count_ne_zero hpos hle⟩

/-- Settles O26: the response to the oldest request is of one of the three forms. -/
theorem noFailureIsPartial : Obligations.NoFailureIsPartial := fun _ p _ hs =>
  ⟨Machine.responseTo p.req, Machine.runRequest_cons hs,
    (Machine.responseTo_isAnswer p.req).allOrNothing⟩

/-! ### The fields of a binary64 word -/

/-- The fraction field as arithmetic on the word's number (R17). -/
theorem f64Frac_eq (b : Word) : f64Frac b = b.toNat % 2 ^ 52 := by
  simp [f64Frac, BitVec.extractLsb'_toNat]

/-- The exponent field as arithmetic on the word's number (R17). -/
theorem f64Exp_eq (b : Word) : f64Exp b = b.toNat / 2 ^ 52 % 2 ^ 11 := by
  simp [f64Exp, BitVec.extractLsb'_toNat, Nat.shiftRight_eq_div_pow]

/-- The sign bit as a comparison of the word's number (R17). -/
theorem f64Sign_eq (b : Word) : f64Sign b = decide (2 ^ 63 ≤ b.toNat) := by
  exact (BitVec.msb_eq_getLsbD_last b).symm.trans (BitVec.msb_eq_decide b)

/-- A word is its three fields side by side (R17). -/
theorem toNat_eq_f64_fields (b : Word) :
    b.toNat = (if f64Sign b then 2 ^ 63 else 0) + (f64Exp b * 2 ^ 52 + f64Frac b) := by
  have := b.isLt
  rw [f64Sign_eq, f64Exp_eq, f64Frac_eq]
  simp only [decide_eq_true_eq]
  split <;> omega

/-- The fraction field has 52 bits (R17). -/
theorem f64Frac_lt (b : Word) : f64Frac b < 2 ^ 52 := by
  rw [f64Frac_eq]
  exact Nat.mod_lt _ (by decide)

/-! ### A magnitude in units determines exponent and fraction -/

/-- The units of a normal number have their top bit 51 above its exponent field. -/
theorem log2_normal_units {e m : Nat} (hm : m < 2 ^ 52) :
    Nat.log2 ((2 ^ 52 + m) * 2 ^ e) = 52 + e := by
  rw [Nat.log2_eq_iff (by positivity), show 52 + e + 1 = 53 + e by omega, pow_add, pow_add]
  exact ⟨Nat.mul_le_mul_right _ (by omega), Nat.mul_lt_mul_of_pos_right (by omega) (by positivity)⟩

/-- Encoding the units of a word with a sign gives that sign and the word's exponent and fraction. -/
theorem f64OfUnits_f64Units (s : Bool) (b : Word) :
    f64OfUnits s (f64Units b) =
      BitVec.ofNat 64 ((if s then 2 ^ 63 else 0) + (f64Exp b * 2 ^ 52 + f64Frac b)) := by
  have hm := f64Frac_lt b
  by_cases he : f64Exp b = 0
  · have hlog : Nat.log2 (f64Frac b) < 52 := by
      by_cases h0 : f64Frac b = 0
      · simp [h0]
      · exact (Nat.log2_lt h0).2 hm
    simp [f64OfUnits, f64Units, he, hlog]
  · obtain ⟨e, he⟩ := Nat.exists_eq_succ_of_ne_zero he
    have hdiv : (2 ^ 52 + f64Frac b) * 2 ^ e / 2 ^ e = 2 ^ 52 + f64Frac b :=
      Nat.mul_div_cancel _ (by positivity)
    have hunits : f64Units b = (2 ^ 52 + f64Frac b) * 2 ^ e := by simp [f64Units, he]
    have hexp : 52 + e - 51 = f64Exp b := by omega
    have hnormal : ¬ 52 + e < 52 := by omega
    simp only [f64OfUnits, hunits, log2_normal_units hm, if_neg hnormal, Nat.add_sub_cancel_left,
      hdiv, hexp]

/-- A word with its sign bit set, other than `-0.0`, has a magnitude (R17). -/
theorem f64Units_ne_zero_of_sign {b : Word} (hs : f64Sign b = true)
    (hb : b ≠ 0x8000000000000000#64) : f64Units b ≠ 0 := by
  intro hu
  have hfields : f64Exp b = 0 ∧ f64Frac b = 0 := by
    unfold f64Units at hu
    split at hu
    · next he => exact ⟨he, hu⟩
    · simp at hu
  apply hb
  rw [← BitVec.toNat_inj, toNat_eq_f64_fields b, hs, hfields.1, hfields.2]
  rfl

/-! ### Units and sign from the exact value -/

/-- A nonnegative numerator over a positive denominator comes back from the reduced fraction. -/
theorem natAbs_num_mul_div_den {q : ℚ} {n d : Nat} (hd : 0 < d) (hq : |q| = n / d) :
    q.num.natAbs * d / q.den = n := by
  have hcross : q.num.natAbs * d = n * q.den := by
    have hden : (q.den : ℚ) ≠ 0 := by exact_mod_cast q.den_nz
    have hd' : (d : ℚ) ≠ 0 := by exact_mod_cast hd.ne'
    have habs : |q| = (q.num.natAbs : ℚ) / q.den := by
      rw [Rat.abs_def, Rat.divInt_eq_div]; simp
    rw [habs, div_eq_div_iff hden hd'] at hq
    exact_mod_cast hq
  rw [hcross, Nat.mul_div_cancel _ q.den_pos]

/-- With the sign bit clear the value is the magnitude (R17). -/
theorem f64Val_of_sign_false {b : Word} (hs : f64Sign b = false) :
    f64Val b = (f64Units b : ℚ) / (2 ^ 1074 : ℕ) := by
  rw [f64Val, hs, if_neg Bool.false_ne_true]

/-- With the sign bit set the value is the magnitude negated (R17). -/
theorem f64Val_of_sign_true {b : Word} (hs : f64Sign b = true) :
    f64Val b = -((f64Units b : ℚ) / (2 ^ 1074 : ℕ)) := by
  rw [f64Val, hs, if_pos rfl]

/-- A magnitude is never negative. -/
theorem f64_magnitude_nonneg (b : Word) : (0 : ℚ) ≤ (f64Units b : ℚ) / (2 ^ 1074 : ℕ) :=
  div_nonneg (Nat.cast_nonneg _) (Nat.cast_nonneg _)

/-- The sign of a word only negates its value (R17). -/
theorem abs_f64Val (b : Word) : |f64Val b| = (f64Units b : ℚ) / (2 ^ 1074 : ℕ) := by
  cases hs : f64Sign b with
  | false => rw [f64Val_of_sign_false hs, abs_of_nonneg (f64_magnitude_nonneg b)]
  | true => rw [f64Val_of_sign_true hs, abs_neg, abs_of_nonneg (f64_magnitude_nonneg b)]

/-- `f64enc` of a word's value encodes the word's own units, with the sign of the value (R17). -/
theorem f64Enc_f64Val (b : Word) :
    f64Enc (f64Val b) = f64OfUnits (decide (f64Val b < 0)) (f64Units b) := by
  rw [f64Enc, natAbs_num_mul_div_den (pow_pos two_pos 1074) (abs_f64Val b)]

/-- The value of a word is negative exactly when its sign bit is set, but for `-0.0` (R17). -/
theorem decide_f64Val_neg {b : Word} (hb : b ≠ 0x8000000000000000#64) :
    decide (f64Val b < 0) = f64Sign b := by
  cases hs : f64Sign b with
  | false =>
    rw [f64Val_of_sign_false hs, decide_eq_false_iff_not, not_lt]
    exact f64_magnitude_nonneg b
  | true =>
    rw [f64Val_of_sign_true hs, decide_eq_true_iff, neg_lt_zero]
    exact div_pos (Nat.cast_pos.2 (Nat.pos_of_ne_zero (f64Units_ne_zero_of_sign hs hb)))
      (Nat.cast_pos.2 (pow_pos two_pos 1074))

/-- Settles O40: the value gives back sign and units, the units exponent and fraction.  Finiteness is
not used: the model's value of a word with exponent field 2047 follows the same formula. -/
theorem f64EncodingInvertsValue : Obligations.F64EncodingInvertsValue := by
  intro b _ hb
  rw [f64Enc_f64Val, decide_f64Val_neg hb, f64OfUnits_f64Units, ← toNat_eq_f64_fields,
    BitVec.ofNat_toNat, BitVec.setWidth_eq]

end Sys2Proof

/-! PROOFS. The statements about the state (spec rules R19, R28, R30, R38): what a clock edge moves over
the two ports, and the invariants of the interface, of the responses and of the record. -/

namespace Sys2Proof

/-! ### What the ports' events leave: the responses taken and the room in the queue -/

namespace Machine

/-- The record of taken responses after the events of an edge (R28, R129). -/
theorem State.portEvents_taken (s : State) :
    s.portEvents.taken = s.taken ++
      (if s.rspValid = true ∧ s.pins.rspReady = true then s.ready.take 1 else []) := by
  simp only [State.portEvents, State.acceptRequest_taken, State.ageQueue_taken]
  rcases s.takeResponse_cases with ⟨x, rest, hv, hp, hr, h⟩ | ⟨hn, h⟩
  · simp [h, hv, hp, hr]
  · rcases hn with hn | hn | hn <;> simp [h, hn]

/-- No response joins the queue by the ports' events. -/
theorem State.portEvents_ready_length_le (s : State) :
    s.portEvents.ready.length ≤ s.ready.length := by
  have hlen := congrArg List.length s.portEvents_taken_ready
  simp only [State.portEvents_taken, List.length_append] at hlen
  omega

/-- The queue still holds at most `DEPTH` requests after the events of an edge: one is accepted only
where `req_ready` is 1, and so only where there is room (R28). -/
theorem State.interfaceOk.portEvents_inFlight_le {s : State} (hs : s.interfaceOk) :
    s.portEvents.inFlight ≤ Config.depth := by
  obtain ⟨-, hle, hroom⟩ := hs
  have hready := s.portEvents_ready_length_le
  simp only [State.inFlight, State.portEvents_pending, List.length_append, List.length_map]
    at hle hroom ⊢
  split
  · next hacc =>
    have := hroom (Bool.and_eq_true_iff.1 hacc).2
    simp only [List.length_singleton]
    omega
  · simp only [List.length_nil]
    omega

/-- An answer keeps the number of requests in flight: the entry turns from a request into its response
(R28). -/
theorem State.afterAnswer_inFlight {s : State} {p : Pending} {rest : List Pending} (x : Response)
    (hp : s.pending = p :: rest) : (s.afterAnswer rest x).inFlight = s.inFlight := by
  simp only [State.inFlight, State.afterAnswer_ready, State.afterAnswer_pending, hp,
    List.length_append, List.length_cons, List.length_nil]
  omega

/-! ### The interface invariant -/

/-- The registered outputs of an edge agree with any queue that fits (R28). -/
theorem State.endEdge_interfaceOk {s : State} (h : s.inFlight ≤ Config.depth) :
    s.endEdge.interfaceOk := by
  have hflight : s.endEdge.inFlight = s.inFlight := rfl
  refine ⟨by simp, hflight ▸ h, fun hready => ?_⟩
  rw [State.endEdge_reqReady, Bool.and_eq_true_iff, decide_eq_true_iff] at hready
  exact hflight ▸ hready.2

/-- With an empty queue and `rsp_valid = 0` the ports agree whatever `req_ready` is, since `DEPTH` is at
least 1 (R9, R30). -/
theorem State.interfaceOk_of_empty {s : State} (hv : s.rspValid = false) (hr : s.ready = [])
    (hp : s.pending = []) : s.interfaceOk := by
  have hflight : s.inFlight = 0 := by simp [State.inFlight, hr, hp]
  have hpos : 0 < Config.depth := Nat.succ_pos _
  exact ⟨by simp [hv, hr], hflight ▸ hpos.le, fun _ => hflight ▸ hpos⟩

end Machine

/-- Settles O15: along the three things a step can do.  Both edges without reset end with the registered
outputs set from a queue that fits. -/
theorem stepKeepsTheInterfaceInvariant : Obligations.StepKeepsTheInterfaceInvariant := by
  intro s t hs hstep
  have hfits := hs.portEvents_inFlight_le
  rcases Machine.step_cases hstep with ⟨-, rfl⟩ | ⟨-, -, rfl⟩ | ⟨q, rest, -, hp, rfl⟩
  · exact Machine.State.interfaceOk_of_empty rfl rfl rfl
  · exact Machine.State.endEdge_interfaceOk hfits
  · exact Machine.State.endEdge_interfaceOk
      ((Machine.State.afterAnswer_inFlight _ hp).trans_le hfits)

/-! ### Every answer is a well-formed response -/

/-- The form of a response, as statements about its fields (R21, R22, R111, R116). -/
theorem Response.wellFormed_iff (x : Response) :
    x.wellFormed = true ↔ x.status.toNat ≤ 4 ∧ x.count.toNat ≤ 9 ∧
      (x.count = 0#4 ↔ x.status ≠ 0#3) ∧
      ∀ k : Fin 9, x.count.toNat ≤ k.val → x.r[k] = 0#64 ∧ x.h[k] = 0#65 := by
  have hcount : ((x.count == 0#4) == !(x.status == 0#3)) = true ↔
      (x.count = 0#4 ↔ x.status ≠ 0#3) := by
    rw [beq_iff_eq, Bool.eq_iff_iff]
    simp
  have htail : x.tailZero = true ↔
      ∀ k : Fin 9, x.count.toNat ≤ k.val → x.r[k] = 0#64 ∧ x.h[k] = 0#65 := by
    simp [Response.tailZero, or_iff_not_imp_left]
  rw [Response.wellFormed, Bool.and_eq_true_iff, Bool.and_eq_true_iff, htail, Response.countLegal,
    Bool.and_eq_true_iff, hcount, Response.statusLegal, decide_eq_true_iff, decide_eq_true_iff,
    and_assoc, and_assoc]

/-- A port word past the end of the list is the filler (R22). -/
theorem getElem_vec9_of_length_le {α : Type} (z : α) {l : List α} {k : Nat} (hk : k < 9)
    (hl : l.length ≤ k) : (vec9 z l)[k] = z := by
  rw [getElem_vec9, List.getD_eq_default l z hl]

/-- A count of at most nine survives the four bits of `count` (R21). -/
theorem ofNat_count_toNat {n : Nat} (hle : n ≤ 9) : (BitVec.ofNat 4 n).toNat = n := by
  rw [BitVec.toNat_ofNat]
  omega

/-- No answer has a status above `100`: it is 0 where there is a result (R111, R114). -/
theorem Response.IsAnswer.status_le {x : Response} (hx : x.IsAnswer) : x.status.toNat ≤ 4 := by
  cases hx with
  | raised _ hle => exact hle
  | ofWords | ofIntervals => exact Nat.zero_le 4

/-- No answer counts more than nine results (R21). -/
theorem Response.IsAnswer.count_le {x : Response} (hx : x.IsAnswer) : x.count.toNat ≤ 9 := by
  cases hx with
  | raised => exact Nat.zero_le 9
  | ofWords _ hle | ofIntervals _ hle => exact (ofNat_count_toNat hle).trans_le hle

/-- An answer is zero in every word and bound from `count` on (R22). -/
theorem Response.IsAnswer.tail_zero {x : Response} (hx : x.IsAnswer) (k : Fin 9)
    (hk : x.count.toNat ≤ k.val) : x.r[k] = 0#64 ∧ x.h[k] = 0#65 := by
  cases hx with
  | raised =>
    exact ⟨getElem_vec9_of_length_le _ k.isLt (Nat.zero_le _),
      getElem_vec9_of_length_le _ k.isLt (Nat.zero_le _)⟩
  | ofWords _ hle =>
    have hlen := (ofNat_count_toNat hle).ge.trans hk
    exact ⟨getElem_vec9_of_length_le _ k.isLt hlen,
      getElem_vec9_of_length_le _ k.isLt (Nat.zero_le _)⟩
  | ofIntervals _ hle =>
    have hlen := (ofNat_count_toNat hle).ge.trans hk
    exact ⟨getElem_vec9_of_length_le _ k.isLt (by rwa [List.length_map]),
      getElem_vec9_of_length_le _ k.isLt (by rwa [List.length_map])⟩

/-- Each of the three forms of an answer is well formed. -/
theorem Response.IsAnswer.wellFormed {x : Response} (hx : x.IsAnswer) : x.wellFormed = true := by
  obtain ⟨herror, hresult⟩ := hx.allOrNothing
  exact x.wellFormed_iff.2 ⟨hx.status_le, hx.count_le,
    ⟨fun hc hs => hresult hs hc, fun hs => (herror hs).1⟩, hx.tail_zero⟩

/-! ### The invariant on the form of responses -/

namespace Machine

/-- Whether the responses are well formed is a matter of the list of all of them, taken and waiting. -/
theorem State.responsesOk_iff (s : State) :
    s.responsesOk ↔ ∀ x ∈ s.taken ++ s.ready, x.wellFormed = true := by
  simp only [State.responsesOk, List.forall_mem_append, and_comm]

/-- The ports' events move responses and make none. -/
theorem State.responsesOk.portEvents {s : State} (hs : s.responsesOk) :
    s.portEvents.responsesOk := by
  rw [State.responsesOk_iff] at hs ⊢
  rwa [s.portEvents_taken_ready]

/-- An answer adds the one response it computed. -/
theorem State.responsesOk.afterAnswer {s : State} (hs : s.responsesOk) (rest : List Pending)
    {x : Response} (hx : x.wellFormed = true) : (s.afterAnswer rest x).responsesOk := by
  obtain ⟨hready, htaken⟩ := hs
  refine ⟨?_, htaken⟩
  rw [State.afterAnswer_ready, List.forall_mem_append]
  exact ⟨hready, List.forall_mem_singleton.2 hx⟩

/-- The end of an edge touches no response. -/
theorem State.responsesOk.endEdge {s : State} (hs : s.responsesOk) : s.endEdge.responsesOk := hs

/-- A reset drops the responses waiting and keeps those taken (R126). -/
theorem State.responsesOk.resetEdge {s : State} (hs : s.responsesOk) : s.resetEdge.responsesOk :=
  ⟨List.forall_mem_nil _, hs.2⟩

end Machine

/-- Settles O17: along the three things a step can do.  The one response a step can add is an answer to
a request, and every answer is well formed. -/
theorem stepKeepsResponsesWellFormed : Obligations.StepKeepsResponsesWellFormed := by
  intro s t hs hstep
  rcases Machine.step_cases hstep with ⟨-, rfl⟩ | ⟨-, -, rfl⟩ | ⟨q, rest, -, -, rfl⟩
  · exact hs.resetEdge
  · exact hs.portEvents.endEdge
  · exact (hs.portEvents.afterAnswer rest (Machine.responseTo_isAnswer q).wellFormed).endEdge

/-! ### Transfers, and the response as a function -/

/-- Settles O12: without reset both records after a step are those after the ports' events. -/
theorem transfersFollowTheHandshake : Obligations.TransfersFollowTheHandshake := by
  intro s t hrst hstep
  have hrecords : t.accepted = s.portEvents.accepted ∧ t.taken = s.portEvents.taken := by
    rcases Machine.step_cases hstep with ⟨hr, -⟩ | ⟨-, -, rfl⟩ | ⟨q, rest, -, -, rfl⟩
    · exact absurd (hr.symm.trans hrst) Bool.noConfusion
    · exact ⟨rfl, rfl⟩
    · exact ⟨rfl, rfl⟩
  obtain ⟨haccepted, htaken⟩ := hrecords
  refine ⟨?_, htaken.trans s.portEvents_taken⟩
  simpa only [Bool.and_eq_true] using haccepted.trans s.portEvents_accepted

/-- Settles O20: the function is the response that the request's control word selects. -/
theorem responseIsAFunctionOfTheRequest : Obligations.ResponseIsAFunctionOfTheRequest :=
  ⟨Machine.responseTo, fun _ _ _ hp => Machine.runRequest_cons hp⟩

/-! ### The reset state -/

/-- Settles O11: each of the three fields is a literal of the reset state. -/
theorem resetStateIsEmpty : Obligations.ResetStateIsEmpty := ⟨rfl, rfl, rfl⟩

/-- Settles O16: the queue is empty at reset. -/
theorem resetMeetsTheInterfaceInvariant : Obligations.ResetMeetsTheInterfaceInvariant :=
  Machine.State.interfaceOk_of_empty rfl rfl rfl

/-- Settles O19: nothing is recorded at reset, so both sides of the record are empty. -/
theorem resetMeetsTheRecordInvariants : Obligations.ResetMeetsTheRecordInvariants :=
  ⟨⟨List.forall_mem_nil _, List.forall_mem_nil _⟩, rfl⟩

end Sys2Proof

/-! PROOFS. The statement about the order of responses (spec/20_memory.md, R37, R38, R126, R129): the
responses taken, waiting and to come stay those to the accepted requests, one each, in their order. -/

namespace Sys2Proof.Machine

/-- Waiting a cycle changes no request, and so none of the responses to come. -/
theorem map_respond_age (ps : List Pending) :
    (ps.map Pending.age).map (fun p => respond p.req) = ps.map fun p => respond p.req := by
  rw [List.map_map]
  rfl

/-- The ports' events add the request they accept, if any, last to the accepted requests, and its
response last to those to come; a response taken only moves from the waiting to the taken (R28, R38). -/
theorem State.recordOk.portEvents {s : State} (hs : s.recordOk) : s.portEvents.recordOk := by
  unfold State.recordOk at hs ⊢
  rw [s.portEvents_accepted, s.portEvents_taken_ready, s.portEvents_pending, List.map_append,
    List.map_append, map_respond_age, hs]
  split <;> simp

/-- An answer turns the first of the responses to come into the last of those waiting (R38, R134). -/
theorem State.recordOk.afterAnswer {s : State} (hs : s.recordOk) {p : Pending} {rest : List Pending}
    (hp : s.pending = p :: rest) : (s.afterAnswer rest (responseTo p.req)).recordOk := by
  unfold State.recordOk at hs ⊢
  simpa [hp, respond_eq] using hs

/-- The end of an edge touches no part of the record. -/
theorem State.recordOk.endEdge {s : State} (hs : s.recordOk) : s.endEdge.recordOk := hs

/-- A reset drops the unanswered requests from both sides: the requests kept are as many as the
responses taken, and the responses taken come first (R126). -/
theorem State.recordOk.resetEdge {s : State} (hs : s.recordOk) : s.resetEdge.recordOk := by
  unfold State.recordOk at hs ⊢
  simp only [State.resetEdge_accepted, State.resetEdge_taken, State.resetEdge_ready,
    State.resetEdge_pending, List.map_take, List.map_nil, List.append_nil]
  rw [hs, List.append_assoc, List.take_left]

end Sys2Proof.Machine

namespace Sys2Proof

/-- Settles O18: along the three things a step can do.  An edge without reset adds a request only last
and answers only the oldest; a reset keeps the part of the record already taken. -/
theorem stepKeepsTheRecordInOrder : Obligations.StepKeepsTheRecordInOrder := by
  intro s t hs hstep
  rcases Machine.step_cases hstep with ⟨-, rfl⟩ | ⟨-, -, rfl⟩ | ⟨q, rest, -, hq, rfl⟩
  · exact hs.resetEdge
  · exact hs.portEvents.endEdge
  · exact (hs.portEvents.afterAnswer hq).endEdge

end Sys2Proof

/-! PROOFS. The statements about the control word (spec/30_encoding.md): the decoder inverts the encoder
and is the table of R57, ignored fields have no effect (R55), illegal words are answered (R54), and the
pseudo-operation QUERY stops at the first error (R59). -/

namespace Sys2Proof

/-! ### The four fields of a control word, as arithmetic on its number -/

/-- The operation code is the low four bits (R47). -/
theorem opField_toNat (c : Ctl) : (opField c).toNat = c.toNat % 2 ^ 4 := by
  simp [opField, BitVec.extractLsb'_toNat]

/-- The direction field is bits 5 and 4 (R47). -/
theorem dirField_toNat (c : Ctl) : (dirField c).toNat = c.toNat / 2 ^ 4 % 2 ^ 2 := by
  simp [dirField, BitVec.extractLsb'_toNat, Nat.shiftRight_eq_div_pow]

/-- The reserved field is bits 7 and 6 (R47). -/
theorem rsvField_toNat (c : Ctl) : (rsvField c).toNat = c.toNat / 2 ^ 6 % 2 ^ 2 := by
  simp [rsvField, BitVec.extractLsb'_toNat, Nat.shiftRight_eq_div_pow]

/-- The precision field is the high byte (R47). -/
theorem stepField_toNat (c : Ctl) : (stepField c).toNat = c.toNat / 2 ^ 8 := by
  have hc := c.isLt
  simp only [stepField, BitVec.extractLsb'_toNat, Nat.shiftRight_eq_div_pow]
  omega

/-- The fields of a built control word do not overlap, so its number is their sum (R47). -/
theorem ctlOf_toNat (op : BitVec 4) (d : DirField) (step : StepField) :
    (ctlOf op d step).toNat = step.toNat * 2 ^ 8 + (d.toNat * 2 ^ 4 + op.toNat) := by
  have hop := op.isLt
  have hd := d.isLt
  have hstep := step.isLt
  have hlow : d.toNat * 2 ^ 4 ||| op.toNat = d.toNat * 2 ^ 4 + op.toNat := by
    rw [Nat.mul_comm, Nat.two_pow_add_eq_or_of_lt hop]
  have hhigh : step.toNat * 2 ^ 8 ||| (d.toNat * 2 ^ 4 + op.toNat) =
      step.toNat * 2 ^ 8 + (d.toNat * 2 ^ 4 + op.toNat) := by
    rw [Nat.mul_comm, Nat.two_pow_add_eq_or_of_lt (by omega)]
  rw [ctlOf, BitVec.toNat_or, BitVec.toNat_or, BitVec.toNat_shiftLeft, BitVec.toNat_shiftLeft,
    BitVec.toNat_setWidth_of_le (by decide), BitVec.toNat_setWidth_of_le (by decide),
    BitVec.toNat_setWidth_of_le (by decide), Nat.shiftLeft_eq, Nat.shiftLeft_eq,
    Nat.mod_eq_of_lt (by omega), Nat.mod_eq_of_lt (by omega), Nat.or_assoc, hlow, hhigh]

@[simp] theorem opField_ctlOf (op : BitVec 4) (d : DirField) (step : StepField) :
    opField (ctlOf op d step) = op := by
  rw [← BitVec.toNat_inj, opField_toNat, ctlOf_toNat]
  omega

@[simp] theorem dirField_ctlOf (op : BitVec 4) (d : DirField) (step : StepField) :
    dirField (ctlOf op d step) = d := by
  rw [← BitVec.toNat_inj, dirField_toNat, ctlOf_toNat]
  omega

@[simp] theorem rsvField_ctlOf (op : BitVec 4) (d : DirField) (step : StepField) :
    rsvField (ctlOf op d step) = 0#2 := by
  rw [← BitVec.toNat_inj, rsvField_toNat, ctlOf_toNat, BitVec.toNat_ofNat]
  omega

@[simp] theorem stepField_ctlOf (op : BitVec 4) (d : DirField) (step : StepField) :
    stepField (ctlOf op d step) = step := by
  rw [← BitVec.toNat_inj, stepField_toNat, ctlOf_toNat]
  omega

/-- A control word whose reserved field is zero is built from its other three fields (R47). -/
theorem ctlOf_fields {c : Ctl} (h : rsvField c = 0#2) :
    ctlOf (opField c) (dirField c) (stepField c) = c := by
  have hrsv := rsvField_toNat c
  rw [h, BitVec.toNat_ofNat] at hrsv
  rw [← BitVec.toNat_inj, ctlOf_toNat, opField_toNat, dirField_toNat, stepField_toNat]
  omega

/-! ### The decoder and the encoder are inverse -/

/-- A built control word decodes by its operation code (R47, R48). -/
theorem decodeCtl_ctlOf (op : BitVec 4) (d : DirField) (step : StepField) :
    decodeCtl (ctlOf op d step) = decodeOp op step d := by
  simp [decodeCtl]

/-- Every encoded operation decodes to itself (R47, R48, R50). -/
@[simp] theorem decodeCtl_encodeCtl (i : Instr) : decodeCtl (encodeCtl i) = .ok i := by
  cases i <;> exact decodeCtl_ctlOf _ _ _

/-- Settles O1: along the operations, each with the fields that its control word is built from. -/
theorem decodeAfterEncodeIsIdentity : Obligations.DecodeAfterEncodeIsIdentity :=
  decodeCtl_encodeCtl

/-- A direction is selected by its own two-bit two's complement code only (R50). -/
theorem eq_ofInt_of_directionOf {d : DirField} {r : Direction} (h : directionOf d = some r) :
    d = BitVec.ofInt 2 r.toInt := by
  unfold directionOf at h
  split at h <;> cases h <;> rfl

/-- The encoder gives back the field values a MOVE_LAT was decoded from (R50). -/
theorem encodeCtl_of_decodeMoveLat {step : StepField} {d : DirField} {i : Instr}
    (h : decodeMoveLat step d = .ok i) : encodeCtl i = ctlOf 4#4 d step := by
  unfold decodeMoveLat at h
  split at h <;> cases h <;> next hd => rw [eq_ofInt_of_directionOf hd]; rfl

/-- The encoder gives back the field values a MOVE_LON was decoded from (R50). -/
theorem encodeCtl_of_decodeMoveLon {step : StepField} {d : DirField} {i : Instr}
    (h : decodeMoveLon step d = .ok i) : encodeCtl i = ctlOf 5#4 d step := by
  unfold decodeMoveLon at h
  split at h <;> cases h <;> next hd => rw [eq_ofInt_of_directionOf hd]; rfl

/-- The encoder gives back the field values an operation was decoded from (R48). -/
theorem encodeCtl_of_decodeOp {op : BitVec 4} {step : StepField} {d : DirField} {i : Instr}
    (h : decodeOp op step d = .ok i) : encodeCtl i = ctlOf op d step := by
  unfold decodeOp at h
  split at h
  case h_5 => exact encodeCtl_of_decodeMoveLat h
  case h_6 => exact encodeCtl_of_decodeMoveLon h
  all_goals cases h <;> rfl

/-- Settles O2: a word the decoder accepts has `rsv = 00`, so it is built from the three fields the
operation was decoded from. -/
theorem encodeAfterDecodeIsIdentity : Obligations.EncodeAfterDecodeIsIdentity := by
  intro c i h
  unfold decodeCtl at h
  split at h
  case isTrue hrsv => exact (encodeCtl_of_decodeOp h).trans (ctlOf_fields hrsv)
  case isFalse => cases h

/-- The control words that decode to an operation are the one that encodes it. -/
theorem decodeCtl_eq_ok_iff {c : Ctl} {i : Instr} : decodeCtl c = .ok i ↔ encodeCtl i = c :=
  ⟨encodeAfterDecodeIsIdentity c i, fun h => h ▸ decodeCtl_encodeCtl i⟩

/-- Settles O4: literals evaluate, and COALESCE decodes with any `step` and `dirf`. -/
theorem workedControlWords : Obligations.WorkedControlWords := by
  have hcoalesce : ∀ (x : StepField) (d : DirField),
      decodeCtl (ctlOf 7#4 d x) = .ok (.coalesce x d) := fun x d => decodeCtl_ctlOf 7#4 d x
  unfold Obligations.WorkedControlWords
  simp only [hcoalesce, implies_true, true_and]
  decide

/-! ### The decoder is the opcode table -/

/-- A field that a mask keeps whole is the field of the pattern (R57). -/
theorem extractLsb'_eq_of_and_eq {c mask pattern : Ctl} {start len : Nat}
    (hmask : mask.extractLsb' start len = BitVec.allOnes len) (h : c &&& mask = pattern) :
    c.extractLsb' start len = pattern.extractLsb' start len := by
  rw [← h, BitVec.extractLsb'_and, hmask, BitVec.and_allOnes]

/-- A word that matches a row fixing `op` and `rsv` is built with the row's `op` (R57). -/
theorem ctlOf_of_mask_free {c : Ctl} {op : BitVec 4} (h : c &&& 0x00CF#16 = ctlOf op 0#2 0#8) :
    ctlOf op (dirField c) (stepField c) = c := by
  have hop : opField c = op := (extractLsb'_eq_of_and_eq rfl h).trans (opField_ctlOf op 0#2 0#8)
  have hrsv : rsvField c = 0#2 :=
    (extractLsb'_eq_of_and_eq rfl h).trans (rsvField_ctlOf op 0#2 0#8)
  exact hop ▸ ctlOf_fields hrsv

/-- A word that matches a row fixing `dirf` too is built with the row's `op` and `dirf` (R57). -/
theorem ctlOf_of_mask_fixed {c : Ctl} {op : BitVec 4} {d : DirField}
    (h : c &&& 0x00FF#16 = ctlOf op d 0#8) : ctlOf op d (stepField c) = c := by
  have hop : opField c = op := (extractLsb'_eq_of_and_eq rfl h).trans (opField_ctlOf op d 0#8)
  have hdir : dirField c = d := (extractLsb'_eq_of_and_eq rfl h).trans (dirField_ctlOf op d 0#8)
  have hrsv : rsvField c = 0#2 := (extractLsb'_eq_of_and_eq rfl h).trans (rsvField_ctlOf op d 0#8)
  exact hop ▸ hdir ▸ ctlOf_fields hrsv

/-- A control word that matches a row decodes to an operation of that row: the one with the word's own
values in the fields that the row leaves open (R57). -/
theorem decodeCtl_of_matches {c : Ctl} {row : OpcodeRow} (hrow : row ∈ opcodeTable)
    (h : row.matches c = true) : ∃ i, decodeCtl c = .ok i ∧ i.mnemonic = row.mnemonic := by
  have hand : c &&& row.mask = row.pattern := beq_iff_eq.1 h
  simp only [decodeCtl_eq_ok_iff]
  simp only [opcodeTable, List.mem_cons, List.not_mem_nil, or_false] at hrow
  rcases hrow with rfl | rfl | rfl | rfl | rfl | rfl | rfl | rfl | rfl | rfl | rfl | rfl
  · exact ⟨.interleave (stepField c) (dirField c), ctlOf_of_mask_free hand, rfl⟩
  · exact ⟨.deinterleave (stepField c) (dirField c), ctlOf_of_mask_free hand, rfl⟩
  · exact ⟨.encode (stepField c) (dirField c), ctlOf_of_mask_free hand, rfl⟩
  · exact ⟨.decode (stepField c) (dirField c), ctlOf_of_mask_free hand, rfl⟩
  · exact ⟨.moveLatStay (stepField c), ctlOf_of_mask_fixed hand, rfl⟩
  · exact ⟨.moveLatNorth (stepField c), ctlOf_of_mask_fixed hand, rfl⟩
  · exact ⟨.moveLatSouth (stepField c), ctlOf_of_mask_fixed hand, rfl⟩
  · exact ⟨.moveLonStay (stepField c), ctlOf_of_mask_fixed hand, rfl⟩
  · exact ⟨.moveLonEast (stepField c), ctlOf_of_mask_fixed hand, rfl⟩
  · exact ⟨.moveLonWest (stepField c), ctlOf_of_mask_fixed hand, rfl⟩
  · exact ⟨.neighbors (stepField c) (dirField c), ctlOf_of_mask_free hand, rfl⟩
  · exact ⟨.coalesce (stepField c) (dirField c), ctlOf_of_mask_free hand, rfl⟩

/-- Every operation is well formed: `Laws.EncodesItsRow`, gathered over the operations (R57). -/
theorem Instr.wellFormed_eq_true (i : Instr) : i.wellFormed = true := by
  cases i with
  | interleave step d => exact Laws.EncodesItsRow.interleave step d
  | deinterleave step d => exact Laws.EncodesItsRow.deinterleave step d
  | encode step d => exact Laws.EncodesItsRow.encode step d
  | decode step d => exact Laws.EncodesItsRow.decode step d
  | moveLatStay step => exact Laws.EncodesItsRow.moveLatStay step
  | moveLatNorth step => exact Laws.EncodesItsRow.moveLatNorth step
  | moveLatSouth step => exact Laws.EncodesItsRow.moveLatSouth step
  | moveLonStay step => exact Laws.EncodesItsRow.moveLonStay step
  | moveLonEast step => exact Laws.EncodesItsRow.moveLonEast step
  | moveLonWest step => exact Laws.EncodesItsRow.moveLonWest step
  | neighbors step d => exact Laws.EncodesItsRow.neighbors step d
  | coalesce step d => exact Laws.EncodesItsRow.coalesce step d

/-- A control word that decodes to an operation matches that operation's row (R57). -/
theorem exists_matches_of_decodeCtl {c : Ctl} {i : Instr} (h : decodeCtl c = .ok i) :
    ∃ row ∈ opcodeTable, row.mnemonic = i.mnemonic ∧ row.matches c = true := by
  have hwf := i.wellFormed_eq_true
  rw [Instr.wellFormed, decodeCtl_eq_ok_iff.1 h] at hwf
  simpa only [List.any_eq_true, Bool.and_eq_true, beq_iff_eq] using hwf

/-- Each row of the table has a name of its own (R57). -/
theorem opcodeTable_mnemonic_nodup : (opcodeTable.map OpcodeRow.mnemonic).Nodup := by decide

/-- A word matches a row of the table exactly when it decodes to an operation of the row's name. -/
theorem matches_iff_decodeCtl {c : Ctl} {row : OpcodeRow} (hrow : row ∈ opcodeTable) :
    row.matches c = true ↔ ∃ i, decodeCtl c = .ok i ∧ i.mnemonic = row.mnemonic := by
  refine ⟨decodeCtl_of_matches hrow, fun ⟨i, hi, hname⟩ => ?_⟩
  obtain ⟨row', hrow', hname', hmatch⟩ := exists_matches_of_decodeCtl hi
  have hsame : row = row' :=
    List.inj_on_of_nodup_map opcodeTable_mnemonic_nodup hrow hrow' (hname.symm.trans hname'.symm)
  rwa [hsame]

/-- A word that matches no row decodes to no operation (R54, R57). -/
theorem decodeCtl_error_of_no_match {c : Ctl} (h : ∀ row ∈ opcodeTable, row.matches c = false) :
    ∃ e, decodeCtl c = .error e := by
  cases hc : decodeCtl c with
  | error e => exact ⟨e, rfl⟩
  | ok i =>
    obtain ⟨row, hrow, -, hmatch⟩ := exists_matches_of_decodeCtl hc
    exact absurd ((h row hrow).symm.trans hmatch) Bool.false_ne_true

/-- Two rows that one word matches have the same name: that of the operation it decodes to (R57). -/
theorem mnemonic_eq_of_matches {c : Ctl} {row row' : OpcodeRow} (hrow : row ∈ opcodeTable)
    (hrow' : row' ∈ opcodeTable) (h : row.matches c = true) (h' : row'.matches c = true) :
    row.mnemonic = row'.mnemonic := by
  obtain ⟨i, hi, hname⟩ := decodeCtl_of_matches hrow h
  obtain ⟨i', hi', hname'⟩ := decodeCtl_of_matches hrow' h'
  obtain rfl : i = i' := Except.ok.inj (hi.symm.trans hi')
  exact hname.symm.trans hname'

/-- Settles O3: the rows are disjoint because a word decodes to one operation, which has one row. -/
theorem decoderIsTheOpcodeTable : Obligations.DecoderIsTheOpcodeTable := by
  refine ⟨fun _ _ => matches_iff_decodeCtl, fun _ => decodeCtl_error_of_no_match, ?_⟩
  refine (List.pairwise_map.1 opcodeTable_mnemonic_nodup).imp_of_mem ?_
  intro row row' hrow hrow' hne c ⟨h, h'⟩
  exact hne (mnemonic_eq_of_matches hrow hrow' h h')

/-! ### Illegal control words -/

/-- No operation's control word meets a cause of R54. -/
theorem not_illegalCtl_encodeCtl (i : Instr) : ¬ illegalCtl (encodeCtl i) := by
  cases i <;> simp [illegalCtl, encodeCtl]

/-- A control word that meets a cause of R54 is rejected. -/
theorem decodeCtl_of_illegalCtl {c : Ctl} (h : illegalCtl c) : ∃ e, decodeCtl c = .error e := by
  cases hc : decodeCtl c with
  | error e => exact ⟨e, rfl⟩
  | ok i => exact absurd (decodeCtl_eq_ok_iff.1 hc ▸ h) (not_illegalCtl_encodeCtl i)

namespace Machine

/-- A legal request is answered by its operation's response (R48). -/
theorem responseTo_of_decodeCtl {q : Request} {i : Instr} (h : decodeCtl q.ctl = .ok i) :
    responseTo q = responseOf i q := by
  rw [responseTo, h]

/-- An illegal request is answered with `IllegalOp` alone (R54). -/
theorem responseTo_of_illegalCtl {q : Request} (h : illegalCtl q.ctl) :
    responseTo q = .raised illegalOp := by
  obtain ⟨e, he⟩ := decodeCtl_of_illegalCtl h
  rw [responseTo, he]

/-- A step without reset answers the oldest request when it is due (R134). -/
theorem step_of_oldest_due {s : State} {p : Pending} {rest : List Pending}
    (hrst : s.pins.rst = false) (hp : s.portEvents.pending = p :: rest) (hwait : p.wait = 0) :
    step s = .next (s.portEvents.afterAnswer rest (responseTo p.req)).endEdge := by
  have hdue : s.portEvents.due = some p.req :=
    State.due_eq_some.2 ⟨rest, by rw [hp, ← hwait]⟩
  simp only [step, hrst, Bool.false_eq_true, if_false, hdue, runRequest_cons hp, mapNext]

end Machine

/-- Settles O8: the step answers the due request, and an illegal one is answered with `IllegalOp`. -/
theorem stepAnswersAnIllegalRequest : Obligations.StepAnswersAnIllegalRequest := by
  intro s p rest hrst hp hwait hillegal
  rw [Machine.step_of_oldest_due hrst hp hwait, Machine.responseTo_of_illegalCtl hillegal]
  rfl

/-! ### Ignored fields -/

namespace Machine

/-- The transaction-level response to a legal request is its operation's (R19, R48). -/
theorem respond_of_decodeCtl {q : Request} {i : Instr} (h : decodeCtl q.ctl = .ok i) :
    respond q = responseOf i q :=
  (respond_eq q).trans (responseTo_of_decodeCtl h)

/-- Two legal requests have the same response when their operations compute the same one. -/
theorem respond_congr {q q' : Request} {i i' : Instr} (h : decodeCtl q.ctl = .ok i)
    (h' : decodeCtl q'.ctl = .ok i') (hresponse : responseOf i q = responseOf i' q') :
    respond q = respond q' := by
  rw [respond_of_decodeCtl h, respond_of_decodeCtl h', hresponse]

/-- INTERLEAVE reads the low halves of two words (R51, R65). -/
theorem interleaveResponse_congr {q q' : Request}
    (h0 : q.a[0].setWidth 32 = q'.a[0].setWidth 32)
    (h1 : q.a[1].setWidth 32 = q'.a[1].setWidth 32) :
    interleaveResponse q = interleaveResponse q' := by
  rw [interleaveResponse, h0, h1, interleaveResponse]

/-- DEINTERLEAVE reads one word (R51, R66). -/
theorem deinterleaveResponse_congr {q q' : Request} (h : q.a[0] = q'.a[0]) :
    deinterleaveResponse q = deinterleaveResponse q' := by
  rw [deinterleaveResponse, h, deinterleaveResponse]

/-- ENCODE reads two words beside the precision (R51, R74). -/
theorem encodeResponse_congr (step : StepField) {q q' : Request} (h0 : q.a[0] = q'.a[0])
    (h1 : q.a[1] = q'.a[1]) : encodeResponse step q = encodeResponse step q' := by
  rw [encodeResponse, h0, h1, encodeResponse]

/-- DECODE reads one word beside the precision (R51, R79). -/
theorem decodeResponse_congr (step : StepField) {q q' : Request} (h : q.a[0] = q'.a[0]) :
    decodeResponse step q = decodeResponse step q' := by
  rw [decodeResponse, h, decodeResponse]

/-- A MOVE reads one word beside the precision and the direction (R51, R90, R91). -/
theorem moveResponse_congr (ax : Axis) (d : Direction) (step : StepField) {q q' : Request}
    (h : q.a[0] = q'.a[0]) : moveResponse ax d step q = moveResponse ax d step q' := by
  rw [moveResponse, h, moveResponse]

/-- The six MOVE rows are the operations with a MOVE's response. -/
theorem responseOf_of_mem_moves {step : StepField} {i : Instr}
    (hi : i ∈ [Instr.moveLatStay step, .moveLatNorth step, .moveLatSouth step, .moveLonStay step,
      .moveLonEast step, .moveLonWest step]) :
    ∃ ax d, responseOf i = moveResponse ax d step := by
  simp only [List.mem_cons, List.not_mem_nil, or_false] at hi
  rcases hi with rfl | rfl | rfl | rfl | rfl | rfl <;> exact ⟨_, _, rfl⟩

/-- NEIGHBORS reads one word beside the precision (R51, R93). -/
theorem neighborsResponse_congr (step : StepField) {q q' : Request} (h : q.a[0] = q'.a[0]) :
    neighborsResponse step q = neighborsResponse step q' := by
  rw [neighborsResponse, h, neighborsResponse]

/-- COALESCE reads the nine operand words (R51, R102). -/
theorem coalesceResponse_congr {q q' : Request} (h : q.a = q'.a) :
    coalesceResponse q = coalesceResponse q' := by
  rw [coalesceResponse, h, coalesceResponse]

end Machine

/-- Settles O6: operation by operation, the response function reads the operands of R51 and, of the
fields of the control word, those its operation carries to it. -/
theorem ignoredFieldsHaveNoEffect : Obligations.IgnoredFieldsHaveNoEffect := by
  intro q q'
  refine ⟨?interleave, ?deinterleave, ?encode, ?decode, ?move, ?neighbors, ?coalesce, ?reserved⟩
  case interleave =>
    intro x x' d d' h h' h0 h1
    exact Machine.respond_congr h h' (Machine.interleaveResponse_congr h0 h1)
  case deinterleave =>
    intro x x' d d' h h' h0
    exact Machine.respond_congr h h' (Machine.deinterleaveResponse_congr h0)
  case encode =>
    intro x d d' h h' h0 h1
    exact Machine.respond_congr h h' (Machine.encodeResponse_congr x h0 h1)
  case decode =>
    intro x d d' h h' h0
    exact Machine.respond_congr h h' (Machine.decodeResponse_congr x h0)
  case move =>
    intro x i hi h h' h0
    obtain ⟨ax, d, hmove⟩ := Machine.responseOf_of_mem_moves hi
    exact Machine.respond_congr h h' (hmove ▸ Machine.moveResponse_congr ax d x h0)
  case neighbors =>
    intro x d d' h h' h0
    exact Machine.respond_congr h h' (Machine.neighborsResponse_congr x h0)
  case coalesce =>
    intro x x' d d' h h' ha
    exact Machine.respond_congr h h' (Machine.coalesceResponse_congr ha)
  case reserved =>
    intro hrsv
    exact decodeCtl_of_illegalCtl (.inr (.inl hrsv))

/-! ### The pseudo-operation QUERY -/

/-- The status of a response of words is the bits raised, and `000` where none is (R14, R111). -/
@[simp] theorem Response.orRaise_ofWords_status (flags : BitVec 3) (ws : List Word) :
    (Response.orRaise flags (.ofWords ws)).status = flags := by
  by_cases h : flags = 0#3
  · rw [h, Response.orRaise_zero, Response.ofWords_status]
  · rw [Response.orRaise_of_ne h, Response.raised_status]

/-- The domain check raises nothing exactly on two legal coordinates (R112). -/
theorem domainFlag_eq_zero_iff {lat lon : Word} :
    domainFlag lat lon = 0#3 ↔ legalCoordinate .lat lat ∧ legalCoordinate .lon lon := by
  rw [← inDomain_iff, ← inDomain_iff, ← Bool.and_eq_true, domainFlag, ite_eq_left_iff]
  simp [outOfRange]

/-- The precision check raises nothing exactly on a legal precision (R110). -/
theorem precisionFlag_eq_zero_iff {step : StepField} :
    precisionFlag step = 0#3 ↔ legalStep step := by
  rw [← precisionLegal_iff, precisionFlag, ite_eq_left_iff]
  simp [unsupportedPrecision]

/-- ENCODE raises nothing exactly on legal operands (R74, R114). -/
theorem encodeFlags_eq_zero_iff {step : StepField} {lat lon : Word} :
    encodeFlags step lat lon = 0#3 ↔
      legalCoordinate .lat lat ∧ legalCoordinate .lon lon ∧ legalStep step := by
  rw [encodeFlags, BitVec.or_eq_zero_iff, domainFlag_eq_zero_iff, precisionFlag_eq_zero_iff,
    and_assoc]

namespace Machine

/-- A request built for an operation is answered by it (R19, R47). -/
theorem respond_requestOf (i : Instr) (ws : List Word) :
    respond (requestOf i ws) = responseOf i (requestOf i ws) :=
  respond_of_decodeCtl (decodeCtl_encodeCtl i)

/-- ENCODE reports the bits its two checks raise (R74). -/
theorem respond_encode_status (step : StepField) (d : DirField) (lat lon : Word) :
    (respond (requestOf (.encode step d) [lat, lon])).status = encodeFlags step lat lon := by
  rw [respond_requestOf]
  exact Response.orRaise_ofWords_status _ _

/-- NEIGHBORS succeeds at a legal precision (R93, R110). -/
theorem respond_neighbors_status {step : StepField} (hstep : legalStep step) (d : DirField)
    (ws : List Word) : (respond (requestOf (.neighbors step d) ws)).status = 0#3 := by
  rw [respond_requestOf, ← precisionFlag_of_legal hstep]
  exact Response.orRaise_ofWords_status _ _

/-- COALESCE always succeeds (R102). -/
theorem respond_coalesce_status (step : StepField) (d : DirField) (ws : List Word) :
    (respond (requestOf (.coalesce step d) ws)).status = 0#3 := by
  rw [respond_requestOf]
  exact Response.ofIntervals_status _

/-- A pseudo-operation goes on after a success (R59). -/
theorem chain_of_success {q : Request} (h : (respond q).status = 0#3)
    (more : Response → List (Request × Response)) :
    chain q more = (q, respond q) :: more (respond q) := by
  rw [chain, if_pos h]

/-- A pseudo-operation stops at an error (R59). -/
theorem chain_of_error {q : Request} (h : (respond q).status ≠ 0#3)
    (more : Response → List (Request × Response)) : chain q more = [(q, respond q)] := by
  rw [chain, if_neg h]

/-- NRANGES at a legal precision is NEIGHBORS, then COALESCE of its nine result words (R59). -/
theorem pseudoNRanges_of_legal (code : Word) {step : StepField} (hstep : legalStep step) :
    pseudoNRanges code step =
      transcript [requestOf (.neighbors step 0#2) [code],
        requestOf (.coalesce 0#8 0#2)
          (respond (requestOf (.neighbors step 0#2) [code])).r.toList] := by
  rw [pseudoNRanges, chain_of_success (respond_neighbors_status hstep 0#2 [code]),
    chain_of_success (respond_coalesce_status 0#8 0#2 _)]
  rfl

/-- QUERY whose ENCODE raises an error is that transaction alone (R59). -/
theorem pseudoQuery_of_error {lat lon : Word} {step : StepField}
    (h : encodeFlags step lat lon ≠ 0#3) :
    pseudoQuery lat lon step = transcript [requestOf (.encode step 0#2) [lat, lon]] := by
  rw [← respond_encode_status step 0#2] at h
  rw [pseudoQuery, chain_of_error h]
  rfl

/-- QUERY whose ENCODE succeeds goes on with NRANGES of its code (R59). -/
theorem pseudoQuery_of_success {lat lon : Word} {step : StepField}
    (h : encodeFlags step lat lon = 0#3) :
    pseudoQuery lat lon step =
      transcript [requestOf (.encode step 0#2) [lat, lon]] ++
        pseudoNRanges (respond (requestOf (.encode step 0#2) [lat, lon])).r[0] step := by
  rw [← respond_encode_status step 0#2] at h
  rw [pseudoQuery, chain_of_success h]
  rfl

end Machine

/-- Settles O57: ENCODE succeeds exactly on legal operands, and then so do the two transactions of
NRANGES. -/
theorem queryStopsAtTheFirstError : Obligations.QueryStopsAtTheFirstError := by
  intro lat lon n legal
  refine ⟨fun hillegal => ?_, fun hlegal => ?_⟩
  · have hflags : encodeFlags n lat lon ≠ 0#3 := mt encodeFlags_eq_zero_iff.1 hillegal
    have hstatus :
        Machine.pseudoStatus (Machine.pseudoQuery lat lon n) = encodeFlags n lat lon := by
      rw [Machine.pseudoQuery_of_error hflags]
      exact Machine.respond_encode_status n 0#2 lat lon
    exact ⟨by rw [Machine.pseudoQuery_of_error hflags]; rfl, hstatus, hstatus ▸ hflags⟩
  · obtain ⟨hlat, hlon, hstep⟩ := hlegal
    rw [Machine.pseudoQuery_of_success (encodeFlags_eq_zero_iff.2 ⟨hlat, hlon, hstep⟩),
      Machine.pseudoNRanges_of_legal _ hstep]
    exact ⟨rfl, Machine.respond_coalesce_status 0#8 0#2 _⟩

end Sys2Proof

/-! PROOFS. The statements about the bit interleaver (spec/40_bit_interleaver.md): the two operations
(R65, R66), the round trip (R67), the laws of `IL` (R70) and the two networks (R68, R69). -/

namespace Sys2Proof

/-! ### The bits of an interleaved word -/

/-- The even bits of `IL(x, y)` are `x` (R63). -/
@[simp] theorem getLsbD_il_even (x y : Index) (i : Nat) :
    (il x y).getLsbD (2 * i) = x.getLsbD i := by
  have hlt : decide (2 * i < 64) = decide (i < 32) := decide_eq_decide.2 (by omega)
  have hbit : (decide (i < 32) && x.getLsbD i) = x.getLsbD i := by
    simpa using BitVec.lt_of_getLsbD (x := x) (i := i)
  simp [getLsbD_il, hlt, hbit]

/-- The odd bits of `IL(x, y)` are `y` (R63). -/
@[simp] theorem getLsbD_il_odd (x y : Index) (i : Nat) :
    (il x y).getLsbD (2 * i + 1) = y.getLsbD i := by
  have hlt : decide (2 * i + 1 < 64) = decide (i < 32) := decide_eq_decide.2 (by omega)
  have hbit : (decide (i < 32) && y.getLsbD i) = y.getLsbD i := by
    simpa using BitVec.lt_of_getLsbD (x := y) (i := i)
  have hhalf : (2 * i + 1) / 2 = i := by omega
  simp [getLsbD_il, hlt, hhalf, hbit, Nat.add_mod]

/-- Two words with the same even and the same odd bits are equal. -/
theorem word_ext {v w : Word} (heven : ∀ i < 32, v.getLsbD (2 * i) = w.getLsbD (2 * i))
    (hodd : ∀ i < 32, v.getLsbD (2 * i + 1) = w.getLsbD (2 * i + 1)) : v = w := by
  refine BitVec.eq_of_getLsbD_eq fun j hj => ?_
  obtain ⟨i, rfl | rfl⟩ := j.even_or_odd'
  · exact heven i (by omega)
  · exact hodd i (by omega)

/-- The first component of `DL` is the even bits (R64). -/
theorem getLsbD_dl_fst (v : Word) {i : Nat} (hi : i < 32) :
    (dl v).1.getLsbD i = v.getLsbD (2 * i) := by
  rw [dl, getLsbD_component, decide_eq_true hi, Bool.true_and, Nat.add_zero]

/-- The second component of `DL` is the odd bits (R64). -/
theorem getLsbD_dl_snd (v : Word) {i : Nat} (hi : i < 32) :
    (dl v).2.getLsbD i = v.getLsbD (2 * i + 1) := by
  rw [dl, getLsbD_component, decide_eq_true hi, Bool.true_and]

/-- De-interleaving undoes interleaving (R67). -/
@[simp] theorem dl_il (x y : Index) : dl (il x y) = (x, y) := by
  refine Prod.ext (BitVec.eq_of_getLsbD_eq fun i hi => ?_) (BitVec.eq_of_getLsbD_eq fun i hi => ?_)
  · rw [getLsbD_dl_fst _ hi, getLsbD_il_even]
  · rw [getLsbD_dl_snd _ hi, getLsbD_il_odd]

/-- Interleaving undoes de-interleaving (R67). -/
@[simp] theorem il_dl (v : Word) : il (dl v).1 (dl v).2 = v :=
  word_ext (fun i hi => (getLsbD_il_even _ _ i).trans (getLsbD_dl_fst v hi))
    (fun i hi => (getLsbD_il_odd _ _ i).trans (getLsbD_dl_snd v hi))

namespace Machine

/-- The word INTERLEAVE answers to two operand words (R65). -/
@[simp] theorem respond_interleave (step : StepField) (d : DirField) (a b : Word) :
    (respond (requestOf (.interleave step d) [a, b])).r[0] =
      il (a.setWidth 32) (b.setWidth 32) := by
  rw [respond_requestOf]
  rfl

/-- The first word DEINTERLEAVE answers to an operand word (R66). -/
@[simp] theorem respond_deinterleave_zero (step : StepField) (d : DirField) (v : Word) :
    (respond (requestOf (.deinterleave step d) [v])).r[0] = (dl v).1.setWidth 64 := by
  rw [respond_requestOf]
  rfl

/-- The second word DEINTERLEAVE answers to an operand word (R66). -/
@[simp] theorem respond_deinterleave_one (step : StepField) (d : DirField) (v : Word) :
    (respond (requestOf (.deinterleave step d) [v])).r[1] = (dl v).2.setWidth 64 := by
  rw [respond_requestOf]
  rfl

end Machine

/-- Settles O27: the answer is `IL` of the low halves, whose bits are those of the operands. -/
theorem interleaveResult : Obligations.InterleaveResult := by
  intro n d s p rest hp
  refine ⟨il (p.req.a[0].setWidth 32) (p.req.a[1].setWidth 32), ?_, fun i hi => ?_⟩
  · rw [Machine.exec_eq_answer, Machine.State.answer_cons _ hp]
    rfl
  · simp [hi]

/-- Settles O28: the answer is the two components of `DL`, zero-extended. -/
theorem deinterleaveResult : Obligations.DeinterleaveResult := by
  intro n d s p rest hp
  have hbelow (z : Index) : (z.setWidth 64).toNat < 2 ^ 32 := by
    rw [BitVec.toNat_setWidth_of_le (by decide)]
    exact z.isLt
  refine ⟨(dl p.req.a[0]).1.setWidth 64, (dl p.req.a[0]).2.setWidth 64, ?_,
    hbelow _, hbelow _, fun i hi => ?_⟩
  · rw [Machine.exec_eq_answer, Machine.State.answer_cons _ hp]
    rfl
  · rw [← getLsbD_dl_fst _ hi, ← getLsbD_dl_snd _ hi]
    have hi' : i < 64 := by omega
    simp [hi']

/-- Settles O29: the operations invert each other because `IL` and `DL` do. -/
theorem interleaverRoundTrip : Obligations.InterleaverRoundTrip := by
  refine ⟨dl_il, il_dl, ?_, ?_⟩
  · rintro x y n n' d d' _ rfl
    simp
  · rintro v _ _ n n' d d' rfl rfl
    simp

/-! ### Interleaving and the bitwise operations -/

/-- `IL` distributes over and (R70 (b)). -/
theorem il_and (x₁ y₁ x₂ y₂ : Index) :
    il (x₁ &&& x₂) (y₁ &&& y₂) = il x₁ y₁ &&& il x₂ y₂ :=
  word_ext (fun i _ => by simp) (fun i _ => by simp)

/-- `IL` distributes over or (R70 (b)). -/
theorem il_or (x₁ y₁ x₂ y₂ : Index) :
    il (x₁ ||| x₂) (y₁ ||| y₂) = il x₁ y₁ ||| il x₂ y₂ :=
  word_ext (fun i _ => by simp) (fun i _ => by simp)

/-- `IL` distributes over exclusive or (R70 (b)). -/
theorem il_xor (x₁ y₁ x₂ y₂ : Index) :
    il (x₁ ^^^ x₂) (y₁ ^^^ y₂) = il x₁ y₁ ^^^ il x₂ y₂ :=
  word_ext (fun i _ => by simp) (fun i _ => by simp)

/-- The two arguments stay apart (R70 (a)). -/
theorem il_eq_or (x y : Index) : il x y = il x 0 ||| il 0 y := by
  simp [← il_or]

/-- The second argument stands one position above the first (R70 (a)). -/
theorem il_zero_left (y : Index) : il 0 y = il y 0 <<< 1 := by
  refine word_ext (fun i hi => ?even) (fun i hi => ?odd)
  case even =>
    rw [getLsbD_il_even, BitVec.getLsbD_shiftLeft]
    cases i with
    | zero => simp
    | succ k =>
      have hbelow : 2 * (k + 1) - 1 = 2 * k + 1 := by omega
      rw [hbelow, getLsbD_il_odd]
      simp
  case odd =>
    have hlt : 2 * i + 1 < 64 := by omega
    rw [getLsbD_il_odd, BitVec.getLsbD_shiftLeft, Nat.add_sub_cancel, getLsbD_il_even]
    simp [hlt]

/-- Interleaving nothing gives nothing. -/
theorem il_zero : il 0 0 = 0 :=
  word_ext (fun i _ => (getLsbD_il_even 0 0 i).trans (by simp))
    (fun i _ => (getLsbD_il_odd 0 0 i).trans (by simp))

/-- The latitude mask holds every bit of the first argument (R15). -/
theorem latMask_eq_il : latMask 32 = il (BitVec.allOnes 32) 0 := by decide +kernel

/-- The longitude mask holds every bit of the second argument (R15). -/
theorem lonMask_eq_il : lonMask 32 = il 0 (BitVec.allOnes 32) := by decide +kernel

/-- Settles O30: each clause is a law of `IL`, and a mask is `IL` of all ones. -/
theorem interleaveIsBitwise : Obligations.InterleaveIsBitwise := by
  refine ⟨fun x y => ⟨il_eq_or x y, il_zero_left y, ?lon, ?lat⟩,
    fun x₁ y₁ x₂ y₂ => ⟨il_and x₁ y₁ x₂ y₂, il_or x₁ y₁ x₂ y₂, il_xor x₁ y₁ x₂ y₂⟩⟩
  case lon => simpa [lonMask_eq_il, ← il_and] using il_zero
  case lat => simpa [latMask_eq_il, ← il_and] using il_zero

/-! ### Interleaving and the order of the integers -/

/-- A bit vector is below `2^n` when it has no bit at `n` or above. -/
theorem toNat_lt_two_pow_iff {w : Nat} (v : BitVec w) (n : Nat) :
    v.toNat < 2 ^ n ↔ ∀ i, n ≤ i → v.getLsbD i = false :=
  ⟨fun h _ hi => Nat.testBit_lt_two_pow (h.trans_le (Nat.pow_le_pow_right (by decide) hi)),
    Nat.lt_pow_two_of_testBit _⟩

/-- The bits at `2n` and above are those of both arguments at `n` and above (R70 (d)). -/
theorem canonical_il_iff (x y : Index) (n : Nat) :
    canonical (il x y) n ↔ x.toNat < 2 ^ n ∧ y.toNat < 2 ^ n := by
  simp only [canonical, toNat_lt_two_pow_iff]
  constructor
  · intro h
    exact ⟨fun i hi => getLsbD_il_even x y i ▸ h (2 * i) (by omega),
      fun i hi => getLsbD_il_odd x y i ▸ h (2 * i + 1) (by omega)⟩
  · rintro ⟨hx, hy⟩ j hj
    obtain ⟨i, rfl | rfl⟩ := j.even_or_odd'
    · rw [getLsbD_il_even, hx i (by omega)]
    · rw [getLsbD_il_odd, hy i (by omega)]

/-- The order of two bit vectors is decided at the highest bit where they differ. -/
theorem lt_iff_exists_top_bit {w : Nat} {u v : BitVec w} :
    u < v ↔ ∃ i, u.getLsbD i = false ∧ v.getLsbD i = true ∧
      ∀ j, i < j → u.getLsbD j = v.getLsbD j := by
  constructor
  · intro h
    have hne : u.toNat ^^^ v.toNat ≠ 0 := Nat.xor_ne_zero_iff.2 (BitVec.lt_def.1 h).ne
    obtain ⟨i, htop, habove⟩ := Nat.exists_most_significant_bit hne
    have hsame : ∀ j, i < j → u.getLsbD j = v.getLsbD j := fun j hj => by
      simpa [BitVec.getLsbD] using habove j hj
    have hdiff : u.getLsbD i ≠ v.getLsbD i := by simpa [BitVec.getLsbD] using htop
    cases hu : u.getLsbD i with
    | false => exact ⟨i, hu, by simpa [hu] using hdiff, hsame⟩
    | true =>
      have hv : v.getLsbD i = false := by simpa [hu] using hdiff
      have hgt : v.toNat < u.toNat :=
        Nat.lt_of_testBit i hv hu fun j hj => (hsame j hj).symm
      exact absurd hgt (BitVec.lt_def.1 h).not_gt
  · rintro ⟨i, hu, hv, hsame⟩
    exact BitVec.lt_def.2 (Nat.lt_of_testBit i hu hv hsame)

/-- `IL` is strictly monotone in its first argument (R70 (e)). -/
theorem il_lt_il_left {x₁ x₂ : Index} (y : Index) (h : x₁ < x₂) : il x₁ y < il x₂ y := by
  obtain ⟨i, h₁, h₂, hsame⟩ := lt_iff_exists_top_bit.1 h
  refine lt_iff_exists_top_bit.2 ⟨2 * i, by simpa, by simpa, fun j hj => ?_⟩
  obtain ⟨k, rfl | rfl⟩ := j.even_or_odd'
  · simpa using hsame k (by omega)
  · simp

/-- `IL` is strictly monotone in its second argument (R70 (e)). -/
theorem il_lt_il_right (x : Index) {y₁ y₂ : Index} (h : y₁ < y₂) : il x y₁ < il x y₂ := by
  obtain ⟨i, h₁, h₂, hsame⟩ := lt_iff_exists_top_bit.1 h
  refine lt_iff_exists_top_bit.2 ⟨2 * i + 1, by simpa, by simpa, fun j hj => ?_⟩
  obtain ⟨k, rfl | rfl⟩ := j.even_or_odd'
  · simp
  · simpa using hsame k (by omega)

/-- An even number has no bit 0. -/
theorem and_one_eq_zero_iff (x : Index) : x &&& 1 = 0 ↔ x.toNat % 2 = 0 := by
  rw [← BitVec.toNat_inj, BitVec.toNat_and]
  simp [Nat.and_one_is_mod]

/-- Adding 1 to a code adds 1 to an even first argument: no carry crosses to the second (R70 (f)). -/
theorem il_add_one {x : Index} (y : Index) (hx : x.toNat % 2 = 0) : il x y + 1 = il (x + 1) y := by
  have hone : (1 : Word) = il 1 0 := by decide +kernel
  have hbit : x &&& 1 = 0 := (and_one_eq_zero_iff x).2 hx
  have hcode : il x y &&& 1 = 0 := by
    rw [hone, ← il_and, hbit]
    simpa using il_zero
  calc il x y + 1 = il x y ||| il 1 0 := by rw [BitVec.add_eq_or_of_and_eq_zero _ _ hcode, ← hone]
    _ = il (x ||| 1) (y ||| 0) := (il_or x y 1 0).symm
    _ = il (x + 1) y := by
      rw [BitVec.add_eq_or_of_and_eq_zero _ _ hbit]; simp

/-- The two lowest bits of a code are the lowest bits of the arguments (R63). -/
theorem il_toNat_mod_four (x y : Index) :
    (il x y).toNat % 4 = x.toNat % 2 + 2 * (y.toNat % 2) := by
  have hx : (il x y).toNat.testBit 0 = x.toNat.testBit 0 := getLsbD_il_even x y 0
  have hy : (il x y).toNat.testBit 1 = y.toNat.testBit 0 := getLsbD_il_odd x y 0
  simp only [Nat.testBit_eq_decide_div_mod_eq, pow_zero, pow_one, Nat.div_one,
    decide_eq_decide] at hx hy
  omega

/-- Adding 1 to a code adds 1 to the first argument exactly when that is even (R70 (f)). -/
theorem il_add_one_iff (x y : Index) : il x y + 1 = il (x + 1) y ↔ x.toNat % 2 = 0 := by
  refine ⟨fun h => ?_, il_add_one y⟩
  have hcode := il_toNat_mod_four x y
  have hnext := il_toNat_mod_four (x + 1) y
  rw [← h, BitVec.toNat_add, BitVec.toNat_add] at hnext
  have hone : (1 : Word).toNat = 1 ∧ (1 : Index).toNat = 1 := ⟨rfl, rfl⟩
  have := x.isLt
  omega

/-- Settles O31: from the bits of a code, from the top bit that differs, and from the carry of bit 0. -/
theorem interleaveAndOrder : Obligations.InterleaveAndOrder :=
  ⟨fun x y n _ => (canonical_il_iff x y n).symm, fun _ _ y => il_lt_il_left y,
    fun x _ _ => il_lt_il_right x, il_add_one_iff⟩

/-! ### The spread and compact networks -/

/-- The word between two stages of the networks: the bits of `t` in blocks of `b`, each block followed
by `b` zeros (R68, R69). -/
def spreadBlocks (b : Nat) (t : Index) : Word :=
  BitVec.ofFnLE fun j : Fin 64 =>
    decide (j.val % (2 * b) < b) && t.getLsbD (j.val / (2 * b) * b + j.val % (2 * b))

/-- The mask of a stage: blocks of `b` ones, each followed by `b` zeros (R68, R69). -/
def blockMask (b : Nat) : Word := BitVec.ofFnLE fun j : Fin 64 => decide (j.val % (2 * b) < b)

/-- Bit `j` of a word between two stages. -/
theorem getLsbD_spreadBlocks (b : Nat) (t : Index) (j : Nat) :
    (spreadBlocks b t).getLsbD j =
      (decide (j < 64) &&
        (decide (j % (2 * b) < b) && t.getLsbD (j / (2 * b) * b + j % (2 * b)))) := by
  simp only [spreadBlocks, BitVec.getLsbD_ofFnLE]
  by_cases h : j < 64 <;> simp [h]

/-- Bit `j` of the mask of a stage. -/
theorem getLsbD_blockMask (b j : Nat) :
    (blockMask b).getLsbD j = (decide (j < 64) && decide (j % (2 * b) < b)) := by
  simp only [blockMask, BitVec.getLsbD_ofFnLE]
  by_cases h : j < 64 <;> simp [h]

/-- Position `r` of block `q` of a word between two stages is bit `b * q + r` of `t`. -/
theorem getLsbD_spreadBlocks_block {b r : Nat} (hr : r < b) (t : Index) (q : Nat) :
    (spreadBlocks b t).getLsbD (2 * b * q + r) = t.getLsbD (b * q + r) := by
  have hdiv : (2 * b * q + r) / (2 * b) = q := by
    rw [Nat.mul_add_div (by omega), Nat.div_eq_of_lt (by omega), Nat.add_zero]
  have hmod : (2 * b * q + r) % (2 * b) = r := by
    rw [Nat.mul_add_mod, Nat.mod_eq_of_lt (by omega)]
  rw [getLsbD_spreadBlocks, hdiv, hmod, Nat.mul_comm q b, decide_eq_true hr, Bool.true_and]
  by_cases hj : 2 * b * q + r < 64
  · simp [hj]
  · have hbeyond : 32 ≤ b * q + r := by rw [Nat.mul_assoc] at hj; omega
    simp [hj, BitVec.getLsbD_of_ge t _ hbeyond]

/-- The zeros after block `q` of a word between two stages. -/
theorem getLsbD_spreadBlocks_gap {b r : Nat} (hr : r < b) (t : Index) (q : Nat) :
    (spreadBlocks b t).getLsbD (2 * b * q + (b + r)) = false := by
  have hmod : (2 * b * q + (b + r)) % (2 * b) = b + r := by
    rw [Nat.mul_add_mod, Nat.mod_eq_of_lt (by omega)]
  rw [getLsbD_spreadBlocks, hmod]
  simp

/-- The mask of a stage keeps its blocks. -/
theorem getLsbD_blockMask_block {b r q : Nat} (hr : r < b) (hj : 2 * b * q + r < 64) :
    (blockMask b).getLsbD (2 * b * q + r) = true := by
  rw [getLsbD_blockMask, Nat.mul_add_mod, Nat.mod_eq_of_lt (by omega)]
  simp [hj, hr]

/-- The mask of a stage clears what follows its blocks. -/
theorem getLsbD_blockMask_gap {b r : Nat} (hr : r < b) (q : Nat) :
    (blockMask b).getLsbD (2 * b * q + (b + r)) = false := by
  rw [getLsbD_blockMask, Nat.mul_add_mod, Nat.mod_eq_of_lt (by omega)]
  simp

/-- A masked word is a word between two stages when its blocks are those of `t`. -/
theorem and_blockMask_eq_spreadBlocks {b : Nat} (hb : 0 < b) {v : Word} {t : Index}
    (h : ∀ q r, r < b → 2 * b * q + r < 64 → v.getLsbD (2 * b * q + r) = t.getLsbD (b * q + r)) :
    v &&& blockMask b = spreadBlocks b t := by
  refine BitVec.eq_of_getLsbD_eq fun j hj => ?_
  have hr : j % (2 * b) < 2 * b := Nat.mod_lt _ (by omega)
  rw [← Nat.div_add_mod j (2 * b)] at hj ⊢
  generalize j / (2 * b) = q, j % (2 * b) = r at *
  rw [BitVec.getLsbD_and]
  rcases Nat.lt_or_ge r b with hlt | hge
  · rw [h q r hlt hj, getLsbD_blockMask_block hlt hj, getLsbD_spreadBlocks_block hlt, Bool.and_true]
  · obtain ⟨k, rfl⟩ := Nat.exists_eq_add_of_le hge
    rw [getLsbD_blockMask_gap (by omega), getLsbD_spreadBlocks_gap (by omega), Bool.and_false]

/-- A stage of the spread network cuts every block of `2b` in two: its upper half moves up by `b`. -/
theorem spread_stage {b : Nat} (hb : 0 < b) (t : Index) :
    (spreadBlocks (2 * b) t ||| (spreadBlocks (2 * b) t <<< b)) &&& blockMask b =
      spreadBlocks b t := by
  refine and_blockMask_eq_spreadBlocks hb fun q r hr hj => ?_
  rw [BitVec.getLsbD_or, BitVec.getLsbD_shiftLeft]
  obtain ⟨m, rfl | rfl⟩ := q.even_or_odd'
  · have hstay : 2 * b * (2 * m) + r = 2 * (2 * b) * m + r := by ring
    have hkeep : b * (2 * m) + r = 2 * b * m + r := by ring
    rw [hstay, getLsbD_spreadBlocks_block (by omega), hkeep]
    cases m with
    | zero => simp [hr]
    | succ k =>
      have hgap : 2 * (2 * b) * (k + 1) + r - b = 2 * (2 * b) * k + (2 * b + (b + r)) := by
        rw [Nat.mul_succ]; omega
      rw [hgap, getLsbD_spreadBlocks_gap (by omega), Bool.and_false, Bool.or_false]
  · have hgap : 2 * b * (2 * m + 1) + r = 2 * (2 * b) * m + (2 * b + r) := by ring
    have hmove : 2 * (2 * b) * m + (2 * b + r) - b = 2 * (2 * b) * m + (b + r) := by omega
    have hkeep : b * (2 * m + 1) + r = 2 * b * m + (b + r) := by ring
    have hpast : ¬ 2 * (2 * b) * m + (2 * b + r) < b := by omega
    rw [hgap] at hj ⊢
    rw [getLsbD_spreadBlocks_gap (by omega), hmove, getLsbD_spreadBlocks_block (by omega), hkeep]
    simp [hj, hpast]

/-- A stage of the compact network joins two blocks of `b`: the second one moves down by `b`. -/
theorem compact_stage {b : Nat} (hb : 0 < b) (t : Index) :
    (spreadBlocks b t ||| (spreadBlocks b t >>> b)) &&& blockMask (2 * b) =
      spreadBlocks (2 * b) t := by
  refine and_blockMask_eq_spreadBlocks (by omega) fun q r hr hj => ?_
  rw [BitVec.getLsbD_or, BitVec.getLsbD_ushiftRight]
  rcases Nat.lt_or_ge r b with hlt | hge
  · have hstay : 2 * (2 * b) * q + r = 2 * b * (2 * q) + r := by ring
    have hgap : b + (2 * b * (2 * q) + r) = 2 * b * (2 * q) + (b + r) := by ring
    rw [hstay, getLsbD_spreadBlocks_block hlt, hgap, getLsbD_spreadBlocks_gap hlt, Bool.or_false]
    congr 1
    ring
  · obtain ⟨k, rfl⟩ := Nat.exists_eq_add_of_le hge
    have hk : k < b := by omega
    have hgap : 2 * (2 * b) * q + (b + k) = 2 * b * (2 * q) + (b + k) := by ring
    have hmove : b + (2 * b * (2 * q) + (b + k)) = 2 * b * (2 * q + 1) + k := by ring
    rw [hgap, getLsbD_spreadBlocks_gap hk, hmove, getLsbD_spreadBlocks_block hk, Bool.false_or]
    congr 1
    ring

/-- In one block of 32 a word holds `t` as it is. -/
theorem spreadBlocks_thirtyTwo (t : Index) : spreadBlocks 32 t = t.setWidth 64 := by
  refine BitVec.eq_of_getLsbD_eq fun j hj => ?_
  rw [getLsbD_spreadBlocks, BitVec.getLsbD_setWidth, Nat.mod_eq_of_lt hj, Nat.div_eq_of_lt hj,
    Nat.zero_mul, Nat.zero_add]
  by_cases h : j < 32
  · simp [h]
  · simp [h, BitVec.getLsbD_of_ge t j (by omega)]

/-- In blocks of one bit a word holds `t` in its even bits. -/
theorem spreadBlocks_one (t : Index) : spreadBlocks 1 t = il t 0 := by
  refine word_ext (fun i _ => ?_) (fun i _ => ?_)
  · simpa using getLsbD_spreadBlocks_block (r := 0) Nat.one_pos t i
  · simpa using getLsbD_spreadBlocks_gap (r := 0) Nat.one_pos t i

/-- Keeping the even bits of a word leaves its first component. -/
theorem and_blockMask_one (w : Word) : w &&& blockMask 1 = spreadBlocks 1 (dl w).1 := by
  refine and_blockMask_eq_spreadBlocks Nat.one_pos fun q r hr hj => ?_
  obtain rfl : r = 0 := by omega
  simpa using (getLsbD_dl_fst w (i := q) (by omega)).symm

/-- The mask constants of the two networks (R68, R69). -/
theorem blockMask_constants :
    0x00000000FFFFFFFF#64 = blockMask 32 ∧ 0x0000FFFF0000FFFF#64 = blockMask 16 ∧
    0x00FF00FF00FF00FF#64 = blockMask 8 ∧ 0x0F0F0F0F0F0F0F0F#64 = blockMask 4 ∧
    0x3333333333333333#64 = blockMask 2 ∧ 0x5555555555555555#64 = blockMask 1 := by
  decide +kernel

/-- The spread network puts its input in the even bits (R68). -/
theorem spread_eq_il (t : Index) : spread t = il t 0 := by
  obtain ⟨-, h16, h8, h4, h2, h1⟩ := blockMask_constants
  simp only [spread, h16, h8, h4, h2, h1]
  rw [← spreadBlocks_thirtyTwo, spread_stage (b := 16) (by decide), spread_stage (b := 8) (by decide),
    spread_stage (b := 4) (by decide), spread_stage (b := 2) (by decide),
    spread_stage (b := 1) (by decide), spreadBlocks_one]

/-- The compact network gathers the even bits of its input (R69). -/
theorem compact_eq_dl_fst (w : Word) : compact w = (dl w).1 := by
  obtain ⟨h32, h16, h8, h4, h2, h1⟩ := blockMask_constants
  simp only [compact, h32, h16, h8, h4, h2, h1]
  rw [and_blockMask_one, compact_stage (b := 1) (by decide), compact_stage (b := 2) (by decide),
    compact_stage (b := 4) (by decide), compact_stage (b := 8) (by decide),
    compact_stage (b := 16) (by decide), spreadBlocks_thirtyTwo]
  simp

/-- The odd bits of a word are the even bits of the word shifted down by one (R64). -/
theorem dl_ushiftRight_one_fst (v : Word) : (dl (v >>> 1)).1 = (dl v).2 := by
  refine BitVec.eq_of_getLsbD_eq fun i hi => ?_
  rw [getLsbD_dl_fst _ hi, getLsbD_dl_snd _ hi, BitVec.getLsbD_ushiftRight, Nat.add_comm]

/-- Settles O32: stage by stage the networks halve and double the blocks of their input. -/
theorem spreadAndCompactNetworks : Obligations.SpreadAndCompactNetworks := by
  refine ⟨fun x y => ?_, fun v => ?_⟩
  · rw [ilSpread, spread_eq_il, spread_eq_il, ← il_zero_left, ← il_eq_or]
  · rw [dlCompact, compact_eq_dl_fst, compact_eq_dl_fst, dl_ushiftRight_one_fst]

end Sys2Proof

/-! PROOFS. The statements about the cell codec (spec/41_cell_codec.md): the quantizer and its cells
(R71, R72, R76, R77), its integer form (R73), and what ENCODE and DECODE answer (R74, R79 to R86). -/

namespace Sys2Proof

/-! ### The scaled value of the quantizer -/

/-- `(q - axisMin) / axisRange * 2^step`, what the quantizer takes the floor of (R71). -/
def scaled (q : ℚ) (ax : Axis) (n : Nat) : ℚ :=
  (q - Config.axisMin ax) / Config.axisRange ax * (2 ^ n : ℕ)

/-- An axis has a positive range (R8). -/
theorem axisRange_pos (ax : Axis) : 0 < Config.axisRange ax := by
  cases ax <;> norm_num [Config.axisRange]

/-- An axis ends one range above its minimum (R8). -/
theorem axisMax_eq (ax : Axis) : Config.axisMax ax = Config.axisMin ax + Config.axisRange ax := by
  cases ax <;> norm_num [Config.axisMin, Config.axisMax, Config.axisRange]

/-- An axis starts half its range below 0 (R8). -/
theorem axisMin_eq (ax : Axis) : Config.axisMin ax = -(Config.axisRange ax / 2) := by
  cases ax <;> norm_num [Config.axisMin, Config.axisRange]

/-- A cell's lower bound is at most a value exactly when its index is at most the scaled value (R78). -/
theorem bound_le_iff (i : Nat) (q : ℚ) (ax : Axis) (n : Nat) :
    bound i ax n ≤ q ↔ (i : ℚ) ≤ scaled q ax n := by
  have hpow : (0 : ℚ) < (2 ^ n : ℕ) := Nat.cast_pos.2 (by positivity)
  rw [bound, scaled, ← div_le_iff₀ hpow, le_div_iff₀ (axisRange_pos ax), le_sub_iff_add_le']

/-- A value is below a bound exactly when its scaled value is below the bound's index (R78). -/
theorem lt_bound_iff (i : Nat) (q : ℚ) (ax : Axis) (n : Nat) :
    q < bound i ax n ↔ scaled q ax n < i := by
  rw [← not_le, bound_le_iff, not_le]

/-- The axis starts at bound 0 (R78). -/
theorem bound_zero (ax : Axis) (n : Nat) : bound 0 ax n = Config.axisMin ax := by simp [bound]

/-- The axis ends at bound `2^step` (R78). -/
theorem bound_two_pow (ax : Axis) (n : Nat) : bound (2 ^ n) ax n = Config.axisMax ax := by
  have hpow : ((2 ^ n : ℕ) : ℚ) ≠ 0 := Nat.cast_ne_zero.2 (by positivity)
  rw [bound, div_self hpow, one_mul, axisMax_eq]

/-- The bounds of an axis ascend (R78). -/
theorem bound_strictMono (ax : Axis) (n : Nat) : StrictMono fun i => bound i ax n := by
  intro i j hij
  have hpow : (0 : ℚ) < (2 ^ n : ℕ) := Nat.cast_pos.2 (by positivity)
  have hquot : (i : ℚ) / (2 ^ n : ℕ) < (j : ℚ) / (2 ^ n : ℕ) :=
    div_lt_div_of_pos_right (Nat.cast_lt.2 hij) hpow
  exact add_lt_add_right (mul_lt_mul_of_pos_right hquot (axisRange_pos ax)) _

/-- Among the bounds of an axis only the last is its maximum (R78). -/
theorem bound_eq_axisMax_iff (i : Nat) (ax : Axis) (n : Nat) :
    bound i ax n = Config.axisMax ax ↔ i = 2 ^ n := by
  rw [← bound_two_pow ax n]
  exact (bound_strictMono ax n).injective.eq_iff

/-- The scaled value of a bound is its index (R78). -/
theorem scaled_bound (i : Nat) (ax : Axis) (n : Nat) : scaled (bound i ax n) ax n = i := by
  have hpow : ((2 ^ n : ℕ) : ℚ) ≠ 0 := Nat.cast_ne_zero.2 (by positivity)
  rw [scaled, bound, add_sub_cancel_left, mul_div_cancel_right₀ _ (axisRange_pos ax).ne',
    div_mul_cancel₀ _ hpow]

/-- Scaling keeps the order (R71). -/
theorem scaled_mono {q r : ℚ} (ax : Axis) (n : Nat) (h : q ≤ r) : scaled q ax n ≤ scaled r ax n :=
  mul_le_mul_of_nonneg_right
    (div_le_div_of_nonneg_right (sub_le_sub_right h _) (axisRange_pos ax).le) (Nat.cast_nonneg _)

/-- The minimum is scaled to 0 (R71). -/
theorem scaled_axisMin (ax : Axis) (n : Nat) : scaled (Config.axisMin ax) ax n = 0 := by
  rw [← bound_zero ax n, scaled_bound, Nat.cast_zero]

/-- The maximum is scaled to `2^step` (R72). -/
theorem scaled_axisMax (ax : Axis) (n : Nat) :
    scaled (Config.axisMax ax) ax n = (2 ^ n : ℕ) := by
  rw [← bound_two_pow ax n, scaled_bound]

/-- The middle of the axis is scaled to `2^(step - 1)` (R77). -/
theorem scaled_zero (ax : Axis) {n : Nat} (hn : 1 ≤ n) : scaled 0 ax n = (2 ^ (n - 1) : ℕ) := by
  have hrange := (axisRange_pos ax).ne'
  obtain ⟨m, rfl⟩ := Nat.exists_eq_add_of_le' hn
  rw [scaled, axisMin_eq, Nat.add_sub_cancel, pow_succ]
  push_cast
  field_simp
  ring

/-- A value of the axis has a nonnegative scaled value (R71). -/
theorem scaled_nonneg {q : ℚ} {ax : Axis} (n : Nat) (h : Config.axisMin ax ≤ q) :
    0 ≤ scaled q ax n :=
  (scaled_axisMin ax n).symm.le.trans (scaled_mono ax n h)

/-- Below the maximum the scaled value is below `2^step` (R72). -/
theorem scaled_lt_two_pow {q : ℚ} {ax : Axis} (n : Nat) (h : q < Config.axisMax ax) :
    scaled q ax n < (2 ^ n : ℕ) := by
  rwa [← lt_bound_iff, bound_two_pow]

/-- `k` bits more of precision scale by `2^k` (R77). -/
theorem scaled_add (q : ℚ) (ax : Axis) (n k : Nat) :
    scaled q ax n = scaled q ax (n + k) / (2 ^ k : ℕ) := by
  have hpow : ((2 ^ k : ℕ) : ℚ) ≠ 0 := Nat.cast_ne_zero.2 (by positivity)
  rw [eq_div_iff hpow, scaled, scaled, mul_assoc, ← Nat.cast_mul, ← pow_add]

/-! ### The quantizer -/

/-- The index is the floor of the scaled value, clamped to the last cell (R71, R72). -/
theorem quant_eq (q : ℚ) (ax : Axis) (n : Nat) :
    quant q ax n = min ⌊scaled q ax n⌋₊ (2 ^ n - 1) :=
  congrArg (min · (2 ^ n - 1)) (Int.floor_toNat _)

/-- The quantizer answers a cell of the axis (R72). -/
theorem quant_lt (q : ℚ) (ax : Axis) (n : Nat) : quant q ax n < 2 ^ n := by
  have hpow : 0 < 2 ^ n := by positivity
  have hle : quant q ax n ≤ 2 ^ n - 1 := quant_eq q ax n ▸ min_le_right _ _
  omega

/-- Below the maximum the clamp does nothing (R72). -/
theorem quant_of_lt_axisMax {q : ℚ} {ax : Axis} (n : Nat) (h : q < Config.axisMax ax) :
    quant q ax n = ⌊scaled q ax n⌋₊ := by
  have hfloor : ⌊scaled q ax n⌋₊ < 2 ^ n :=
    (Nat.floor_lt' (by positivity)).2 (scaled_lt_two_pow n h)
  rw [quant_eq, min_eq_left (by omega)]

/-- The maximum is clamped to the last cell (R72). -/
theorem quant_axisMax (ax : Axis) (n : Nat) : quant (Config.axisMax ax) ax n = 2 ^ n - 1 := by
  rw [quant_eq, scaled_axisMax, Nat.floor_natCast, min_eq_right (Nat.sub_le _ _)]

/-- A bound below the axis's maximum is quantized to its index (R76). -/
theorem quant_bound {i : Nat} (ax : Axis) {n : Nat} (hi : i < 2 ^ n) :
    quant (bound i ax n) ax n = i := by
  rw [quant_eq, scaled_bound, Nat.floor_natCast, min_eq_left (by omega)]

/-- Settles O35: the scaled value of the maximum is `2^step`, that of any other value is below. -/
theorem clampActsOnTheMaximumOnly : Obligations.ClampActsOnTheMaximumOnly := by
  intro q ax n _ _ hmin _
  refine ⟨quant_lt q ax n, ?maximum, fun hlt => ?below⟩
  case maximum =>
    rintro rfl
    refine ⟨?_, quant_axisMax ax n⟩
    change ⌊scaled _ ax n⌋ = _
    rw [scaled_axisMax, Int.floor_natCast, Nat.cast_pow, Nat.cast_ofNat]
  case below =>
    rw [quant_of_lt_axisMax n hlt, Int.natCast_floor_eq_floor (scaled_nonneg n hmin)]
    rfl

/-! ### Cells -/

/-- A cell of the axis holds the values from its lower bound up to, not including, its upper bound, and
the axis's maximum where that is its upper bound (R76). -/
theorem inCell_iff {q : ℚ} {ax : Axis} {n i : Nat} (hi : i < 2 ^ n) :
    inCell q ax n i ↔ bound i ax n ≤ q ∧ (q < bound (i + 1) ax n ∨
      (q = Config.axisMax ax ∧ bound (i + 1) ax n = Config.axisMax ax)) := by
  rw [bound_eq_axisMax_iff, inCell]
  exact and_iff_right hi

/-- A value is at least the lower bound of its cell (R82). -/
theorem inCell.lower_le {q : ℚ} {ax : Axis} {n i : Nat} (h : inCell q ax n i) :
    bound i ax n ≤ q := by
  obtain ⟨-, hle, -⟩ := h
  exact hle

/-- A value other than the axis's maximum is below the upper bound of its cell (R82). -/
theorem inCell.lt_upper {q : ℚ} {ax : Axis} {n i : Nat} (h : inCell q ax n i)
    (hne : q ≠ Config.axisMax ax) : q < bound (i + 1) ax n := by
  obtain ⟨-, -, hlt | ⟨heq, -⟩⟩ := h
  · exact hlt
  · exact absurd heq hne

/-- A value is at most the upper bound of its cell (R82). -/
theorem inCell.le_upper {q : ℚ} {ax : Axis} {n i : Nat} (h : inCell q ax n i) :
    q ≤ bound (i + 1) ax n := by
  obtain ⟨-, -, hlt | ⟨rfl, hlast⟩⟩ := h
  · exact hlt.le
  · rw [hlast, bound_two_pow]

/-- The cell of a bound other than the axis's maximum is the one above it (R76). -/
theorem inCell_bound {i : Nat} (ax : Axis) {n : Nat} (hi : i < 2 ^ n) :
    inCell (bound i ax n) ax n i :=
  (inCell_iff hi).2 ⟨le_rfl, .inl (bound_strictMono ax n (Nat.lt_succ_self i))⟩

/-- On the axis, the cell that holds a value is the one the quantizer answers (R76). -/
theorem inCell_iff_quant_eq {q : ℚ} {ax : Axis} {n i : Nat} (hmin : Config.axisMin ax ≤ q)
    (hmax : q ≤ Config.axisMax ax) : inCell q ax n i ↔ quant q ax n = i := by
  rw [inCell, bound_le_iff, lt_bound_iff]
  rcases hmax.lt_or_eq with hlt | rfl
  · have hfloor : (i : ℚ) ≤ scaled q ax n ∧ scaled q ax n < (i + 1 : ℕ) ↔
        quant q ax n = i := by
      rw [quant_of_lt_axisMax n hlt, Nat.floor_eq_iff (scaled_nonneg n hmin), Nat.cast_succ]
    constructor
    · rintro ⟨-, hle, hlt' | ⟨rfl, -⟩⟩
      · exact hfloor.1 ⟨hle, hlt'⟩
      · exact absurd hlt (lt_irrefl _)
    · intro h
      exact ⟨h ▸ quant_lt q ax n, (hfloor.2 h).1, .inl (hfloor.2 h).2⟩
  · rw [scaled_axisMax, quant_axisMax, Nat.cast_le, Nat.cast_lt]
    have hpow : 0 < 2 ^ n := by positivity
    simp only [true_and]
    omega

/-- A cell holds values of its axis only (R76). -/
theorem inCell.mem_axis {q : ℚ} {ax : Axis} {n i : Nat} (h : inCell q ax n i) :
    Config.axisMin ax ≤ q ∧ q ≤ Config.axisMax ax := by
  obtain ⟨hi, hle, hupper⟩ := h
  refine ⟨?_, ?_⟩
  · rw [← bound_zero ax n]
    exact ((bound_strictMono ax n).monotone (Nat.zero_le i)).trans hle
  · rcases hupper with hlt | ⟨rfl, -⟩
    · rw [← bound_two_pow ax n]
      exact hlt.le.trans ((bound_strictMono ax n).monotone hi)
    · exact le_rfl

/-- A cell that holds a value is the one the quantizer answers (R76). -/
theorem inCell.quant_eq {q : ℚ} {ax : Axis} {n i : Nat} (h : inCell q ax n i) :
    quant q ax n = i :=
  (inCell_iff_quant_eq h.mem_axis.1 h.mem_axis.2).1 h

/-- Settles O34: both cells are the one the quantizer answers. -/
theorem cellOfAValueIsUnique : Obligations.CellOfAValueIsUnique :=
  fun _ _ _ _ _ _ hi hj => hi.quant_eq.symm.trans hj.quant_eq

/-! ### The laws of the quantizer -/

/-- The quantizer is monotone (R77 (a)). -/
theorem quant_mono {q r : ℚ} (ax : Axis) (n : Nat) (h : q ≤ r) : quant q ax n ≤ quant r ax n := by
  rw [quant_eq, quant_eq]
  exact min_le_min_right _ (Nat.floor_mono (scaled_mono ax n h))

/-- A coarser index is the finer one with its low bits dropped (R77 (c)): flooring and clamping both
commute with the division. -/
theorem quant_eq_div (q : ℚ) (ax : Axis) (n k : Nat) :
    quant q ax n = quant q ax (n + k) / 2 ^ k := by
  have hlast : (2 ^ (n + k) - 1) / 2 ^ k = 2 ^ n - 1 := by
    have hpos : 0 < 2 ^ k * 2 ^ n := by positivity
    rw [pow_add, mul_comm]
    simpa using Nat.mul_sub_div 0 _ _ hpos
  have hdiv : Monotone fun a : Nat => a / 2 ^ k := fun _ _ h => Nat.div_le_div_right h
  rw [quant_eq, quant_eq, scaled_add q ax n k, Nat.floor_div_natCast, ← hlast]
  exact hdiv.map_min.symm

/-- `IL` of halved indices is the code without its two low bits (R77 (d)). -/
theorem il_ushiftRight_one (x y : Index) : il (x >>> 1) (y >>> 1) = il x y >>> 2 := by
  refine word_ext (fun i _ => ?_) (fun i _ => ?_)
  · rw [getLsbD_il_even, BitVec.getLsbD_ushiftRight, BitVec.getLsbD_ushiftRight,
      show 2 + 2 * i = 2 * (1 + i) by omega, getLsbD_il_even]
  · rw [getLsbD_il_odd, BitVec.getLsbD_ushiftRight, BitVec.getLsbD_ushiftRight,
      show 2 + (2 * i + 1) = 2 * (1 + i) + 1 by omega, getLsbD_il_odd]

/-- At a precision of at most 32 the index of a word fits its 32 bits (R74). -/
theorem quantWord_toNat (b : Word) (ax : Axis) {n : Nat} (hn : n ≤ 32) :
    (quantWord b ax n).toNat = quant (f64Val b) ax n := by
  rw [quantWord, BitVec.toNat_ofNat]
  exact Nat.mod_eq_of_lt ((quant_lt _ ax n).trans_le (Nat.pow_le_pow_right (by decide) hn))

/-- A word's coarser index is the finer one shifted (R77 (c)). -/
theorem quantWord_eq_ushiftRight (b : Word) (ax : Axis) {n : Nat} (hn : n < 32) :
    quantWord b ax n = quantWord b ax (n + 1) >>> 1 := by
  rw [← BitVec.toNat_inj, BitVec.toNat_ushiftRight, quantWord_toNat b ax hn.le,
    quantWord_toNat b ax hn, Nat.shiftRight_eq_div_pow]
  exact quant_eq_div _ ax n 1

/-- Settles O36: monotone because flooring and clamping are, the ends and the middle from their scaled
values, the nesting from `quant_eq_div`, which needs no domain. -/
theorem quantizerLaws : Obligations.QuantizerLaws := by
  refine ⟨fun _ _ ax n => quant_mono ax n, fun ax n hn => ⟨?minimum, quant_axisMax ax n, ?middle⟩,
    fun q ax n _ _ _ _ => quant_eq_div q ax n 1, fun lat lon n _ _ _ hn => ?code,
    fun q ax n _ _ _ hn => ?coarser⟩
  case minimum =>
    rw [← bound_zero ax n]
    exact quant_bound ax (by positivity)
  case middle =>
    have hhalf : 2 ^ (n - 1) < 2 ^ n := Nat.pow_lt_pow_right (by decide) (by omega)
    rw [quant_eq, scaled_zero ax hn, Nat.floor_natCast, min_eq_left (by omega)]
  case code =>
    rw [Machine.encodeCode, quantWord_eq_ushiftRight lat .lat hn,
      quantWord_eq_ushiftRight lon .lon hn]
    exact il_ushiftRight_one _ _
  case coarser =>
    have h := quant_eq_div q ax n (32 - n)
    rwa [Nat.add_sub_cancel' hn] at h

/-! ### The integer-only quantizer -/

/-- The significand of a finite word, its hidden bit in place (R17, R73). -/
def f64Sig (b : Word) : Nat := if f64Exp b = 0 then f64Frac b else 2 ^ 52 + f64Frac b

/-- The units are the significand scaled by the exponent field less 1, which is 0 for a subnormal
(R17). -/
theorem f64Units_eq_sig (b : Word) : f64Units b = f64Sig b * 2 ^ (f64Exp b - 1) := by
  by_cases he : f64Exp b = 0 <;> simp [f64Units, f64Sig, he]

/-- Shifting a significand right divides by the power of two; the bits shifted out are all zero exactly
when the power divides (R73). -/
theorem shiftRight_and_dvd (m : Nat) {x d : Nat} (h : x < d) :
    m >>> (d - x) = m * 2 ^ x / 2 ^ d ∧ (m % 2 ^ (d - x) = 0 ↔ 2 ^ d ∣ m * 2 ^ x) := by
  have hpos : 0 < 2 ^ x := by positivity
  have hsplit : 2 ^ d = 2 ^ (d - x) * 2 ^ x := by rw [← pow_add, Nat.sub_add_cancel h.le]
  rw [hsplit, Nat.mul_div_mul_right _ _ hpos, Nat.mul_dvd_mul_iff_right hpos,
    Nat.shiftRight_eq_div_pow, Nat.dvd_iff_mod_eq_zero]
  exact ⟨rfl, Iff.rfl⟩

/-- Shifting a significand left multiplies by the power of two, and nothing is lost (R73). -/
theorem shiftLeft_and_dvd (m : Nat) {x d : Nat} (h : d ≤ x) :
    m <<< (x - d) = m * 2 ^ x / 2 ^ d ∧ 2 ^ d ∣ m * 2 ^ x := by
  have hpos : 0 < 2 ^ d := by positivity
  have hsplit : m * 2 ^ x = m * 2 ^ (x - d) * 2 ^ d := by
    rw [mul_assoc, ← pow_add, Nat.sub_add_cancel h]
  rw [hsplit, Nat.mul_div_cancel _ hpos, Nat.shiftLeft_eq]
  exact ⟨rfl, Dvd.intro_left _ rfl⟩

/-- `FLOORSCALE` in units: the quotient of the scaled units by `2^1074`, and for a negative word the
negation of that quotient rounded up (R73). -/
theorem floorScale_eq (b : Word) (sh : Nat) :
    floorScale b sh =
      if f64Sign b then
        -((f64Units b * 2 ^ sh / 2 ^ 1074 : ℕ) + if 2 ^ 1074 ∣ f64Units b * 2 ^ sh then 0 else 1 : ℤ)
      else (f64Units b * 2 ^ sh / 2 ^ 1074 : ℕ) := by
  have hex : (if f64Exp b = 0 then (-1074 : ℤ) else (f64Exp b : ℤ) - 1075) + sh =
      ((f64Exp b - 1 + sh : ℕ) : ℤ) - (1074 : ℕ) := by
    split <;> omega
  have hunits : f64Units b * 2 ^ sh = f64Sig b * 2 ^ (f64Exp b - 1 + sh) := by
    rw [f64Units_eq_sig, mul_assoc, pow_add]
  have hsig : (if f64Exp b = 0 then f64Frac b else 2 ^ 52 + f64Frac b) = f64Sig b := rfl
  simp only [floorScale, hex, hunits, hsig]
  generalize f64Exp b - 1 + sh = x
  generalize 1074 = d
  rcases le_or_gt d x with h | h
  · obtain ⟨hmag, hdvd⟩ := shiftLeft_and_dvd (f64Sig b) h
    have hk : (0 : ℤ) ≤ (x : ℤ) - (d : ℤ) := by omega
    have hnat : ((x : ℤ) - (d : ℤ)).toNat = x - d := by omega
    simp only [if_pos hk, hnat, hmag, if_pos hdvd, Bool.false_eq_true, if_false]
  · obtain ⟨hmag, hdvd⟩ := shiftRight_and_dvd (f64Sig b) h
    have hk : ¬ (0 : ℤ) ≤ (x : ℤ) - (d : ℤ) := by omega
    have hnat : (-((x : ℤ) - (d : ℤ))).toNat = d - x := by omega
    simp only [if_neg hk, hnat, hmag, ne_eq, hdvd, decide_eq_true_eq, ite_not]

/-- The floor of a negated fraction is the negation of the quotient rounded up. -/
theorem floor_neg_div (m : Nat) {d : Nat} (hd : 0 < d) :
    ⌊-((m : ℚ) / d)⌋ = -((m / d : ℕ) + if d ∣ m then 0 else 1 : ℤ) := by
  rw [← neg_div, ← Int.cast_natCast m, ← Int.cast_neg, Rat.floor_intCast_div_natCast, Int.neg_ediv]
  simp only [Int.sign_natCast_of_ne_zero hd.ne', Int.natCast_dvd_natCast, Int.natCast_ediv, neg_add,
    sub_eq_add_neg]

/-- `FLOORSCALE` is the floor of the exact value scaled by `2^sh` (R73). -/
theorem floorScale_eq_floor (b : Word) (sh : Nat) :
    floorScale b sh = ⌊f64Val b * (2 ^ sh : ℕ)⌋ := by
  have hscale : (f64Units b : ℚ) / (2 ^ 1074 : ℕ) * (2 ^ sh : ℕ) =
      (f64Units b * 2 ^ sh : ℕ) / (2 ^ 1074 : ℕ) := by
    rw [Nat.cast_mul, div_mul_eq_mul_div]
  rw [floorScale_eq]
  have hpos : 0 < 2 ^ 1074 := pow_pos two_pos 1074
  cases hs : f64Sign b with
  | false =>
    rw [f64Val_of_sign_false hs, hscale, Rat.floor_natCast_div_natCast,
      if_neg Bool.false_ne_true]
    exact Int.natCast_ediv _ _
  | true =>
    rw [f64Val_of_sign_true hs, neg_mul, hscale, floor_neg_div _ hpos, if_pos rfl]

/-- The fraction of R73 is the scaled value: `axisRange` is `45 * 2^32` over the scale of `FLOORSCALE`,
and `-axisMin` is `90 * 2^30` over it. -/
theorem scaled_eq_integer_form (q : ℚ) (ax : Axis) {n : Nat} (hn : n ≤ 32) :
    scaled q ax n =
      (q * (2 ^ quantShift ax : ℕ) + (90 * 2 ^ 30 : ℤ)) / (45 * 2 ^ (32 - n) : ℕ) := by
  have hpow : (2 : ℚ) ^ 32 = 2 ^ (32 - n) * 2 ^ n := by rw [← pow_add, Nat.sub_add_cancel hn]
  have hpos : (45 : ℚ) * 2 ^ (32 - n) ≠ 0 := by positivity
  rw [eq_div_iff (by exact_mod_cast hpos), scaled]
  cases ax with
  | lat =>
    simp only [quantShift, Config.axisMin, Config.axisRange]
    push_cast
    linear_combination -(q + 90) / 4 * hpow
  | lon =>
    simp only [quantShift, Config.axisMin, Config.axisRange]
    push_cast
    linear_combination -(q + 180) / 8 * hpow

/-- Settles O37: `FLOORSCALE` is a floor, and floors commute with adding an integer and with dividing by a
natural number. -/
theorem integerQuantizerIsExact : Obligations.IntegerQuantizerIsExact := by
  intro b ax n _ _ hn
  rw [quant_eq, scaled_eq_integer_form _ ax hn, ← Int.floor_toNat, Int.floor_div_natCast,
    Int.floor_add_intCast, ← floorScale_eq_floor, Nat.cast_mul, Nat.cast_pow]
  rfl

/-! ### What ENCODE answers -/

/-- The index of a legal coordinate word is that of the cell that holds its value (R74, R76). -/
theorem inCell_iff_quantWord {ax : Axis} {b : Word} {n : Nat} (hb : legalCoordinate ax b)
    (hn : n ≤ 32) (i : Nat) : inCell (f64Val b) ax n i ↔ (quantWord b ax n).toNat = i := by
  obtain ⟨-, hmin, hmax⟩ := hb
  rw [inCell_iff_quant_eq hmin hmax, quantWord_toNat b ax hn]

/-- An index at a precision is below `2^step` (R72). -/
theorem quantWord_lt (b : Word) (ax : Axis) {n : Nat} (hn : n ≤ 32) :
    (quantWord b ax n).toNat < 2 ^ n :=
  quantWord_toNat b ax hn ▸ quant_lt _ ax n

namespace Machine

/-- De-interleaving ENCODE's code gives the two indices (R74). -/
@[simp] theorem dl_encodeCode (lat lon : Word) (n : Nat) :
    dl (encodeCode lat lon n) = (quantWord lat .lat n, quantWord lon .lon n) :=
  dl_il _ _

/-- ENCODE's code is canonical at its precision (R74). -/
theorem encodeCode_canonical (lat lon : Word) {n : Nat} (hn : n ≤ 32) :
    canonical (encodeCode lat lon n) n :=
  (canonical_il_iff _ _ n).2 ⟨quantWord_lt lat .lat hn, quantWord_lt lon .lon hn⟩

/-- With legal operands ENCODE answers the code alone (R74). -/
theorem encodeResponse_of_legal {step : StepField} {q : Request} (hstep : legalStep step)
    (hlat : legalCoordinate .lat q.a[0]) (hlon : legalCoordinate .lon q.a[1]) :
    encodeResponse step q = .ofWords [encodeCode q.a[0] q.a[1] step.toNat] := by
  rw [encodeResponse, encodeFlags_eq_zero_iff.2 ⟨hlat, hlon, hstep⟩, Response.orRaise_zero]

/-- With legal operands the transaction answers the code alone (R19, R74). -/
theorem respond_encode_of_legal {step : StepField} {lat lon : Word} (hstep : legalStep step)
    (hlat : legalCoordinate .lat lat) (hlon : legalCoordinate .lon lon) (d : DirField) :
    respond (requestOf (.encode step d) [lat, lon]) = .ofWords [encodeCode lat lon step.toNat] :=
  (respond_requestOf _ _).trans (encodeResponse_of_legal hstep hlat hlon)

end Machine

/-- Settles O33: the code's indices are the quantizer's, and those are the cells that hold the values. -/
theorem encodeResult : Obligations.EncodeResult := by
  intro n d s p rest hp hn hlat hlon
  refine ⟨Machine.encodeCode p.req.a[0] p.req.a[1] n.toNat, ?_, ?_, ?_,
    Machine.encodeCode_canonical _ _ hn.2⟩
  · rw [Machine.exec_eq_answer, Machine.State.answer_cons _ hp, Machine.responseOf,
      Machine.encodeResponse_of_legal hn hlat hlon]
    rfl
  · rw [Machine.dl_encodeCode, inCell_iff_quantWord hlat hn.2]
  · rw [Machine.dl_encodeCode, inCell_iff_quantWord hlon hn.2]

/-! ### Plain binary64 words of dyadic fractions -/

/-- A finite word that is no subnormal and not `-0.0` (R85). -/
def F64Plain (b : Word) : Prop := f64Class b = .finite ∧ (f64Exp b = 0 → b = 0)

/-- The word with the given three fields (R17). -/
def f64OfFields (s : Bool) (e m : Nat) : Word :=
  BitVec.ofNat 64 ((if s then 2 ^ 63 else 0) + (e * 2 ^ 52 + m))

/-- The fields of a word built from three fields that fit (R17). -/
theorem fields_f64OfFields (s : Bool) {e m : Nat} (he : e < 2 ^ 11) (hm : m < 2 ^ 52) :
    f64Sign (f64OfFields s e m) = s ∧ f64Exp (f64OfFields s e m) = e ∧
      f64Frac (f64OfFields s e m) = m := by
  have htoNat : (f64OfFields s e m).toNat = (if s then 2 ^ 63 else 0) + (e * 2 ^ 52 + m) := by
    rw [f64OfFields, BitVec.toNat_ofNat]
    split <;> omega
  rw [f64Sign_eq, f64Exp_eq, f64Frac_eq, htoNat]
  refine ⟨?sign, ?exponent, ?fraction⟩
  case sign =>
    cases s with
    | false => exact decide_eq_false (by rw [if_neg Bool.false_ne_true]; omega)
    | true => exact decide_eq_true (by rw [if_pos rfl]; omega)
  case exponent => split <;> omega
  case fraction => split <;> omega

/-- A normal word, one with an exponent field from 1 to 2046, is plain (R17). -/
theorem f64Plain_of_normal {b : Word} (hpos : f64Exp b ≠ 0) (hlt : f64Exp b < 2047) :
    F64Plain b :=
  ⟨if_neg hlt.ne, fun h => absurd h hpos⟩

/-- Every fraction `m / 2^k` with a nonzero numerator of at most 53 bits is the magnitude of a plain
word of either sign: the numerator's bits below its top one are the fraction field (R17, R80). -/
theorem exists_f64_of_magnitude (s : Bool) {m k : Nat} (hm : m ≠ 0) (hlt : m < 2 ^ 53)
    (hk : k ≤ 1022) :
    ∃ b, F64Plain b ∧ f64Sign b = s ∧ f64Units b = m * 2 ^ (1074 - k) := by
  obtain ⟨htop, hnext⟩ := (Nat.log2_eq_iff hm).1 rfl
  have hlog : m.log2 < 53 := (Nat.log2_lt hm).2 hlt
  generalize m.log2 = l at htop hnext hlog
  have hlow : 2 ^ 52 ≤ m * 2 ^ (52 - l) := by
    calc 2 ^ 52 = 2 ^ l * 2 ^ (52 - l) := by rw [← pow_add]; congr 1; omega
      _ ≤ m * 2 ^ (52 - l) := Nat.mul_le_mul_right _ htop
  have hhigh : m * 2 ^ (52 - l) < 2 ^ 53 := by
    calc m * 2 ^ (52 - l) < 2 ^ (l + 1) * 2 ^ (52 - l) :=
          Nat.mul_lt_mul_of_pos_right hnext (by positivity)
      _ = 2 ^ 53 := by rw [← pow_add]; congr 1; omega
  obtain ⟨hs, he, hf⟩ := fields_f64OfFields s (e := l + 1023 - k) (m := m * 2 ^ (52 - l) - 2 ^ 52)
    (by omega) (by omega)
  refine ⟨f64OfFields s (l + 1023 - k) (m * 2 ^ (52 - l) - 2 ^ 52),
    f64Plain_of_normal (by omega) (by omega), hs, ?_⟩
  have hexp : 52 - l + (l + 1023 - k - 1) = 1074 - k := by omega
  rw [f64Units, if_neg (by omega), he, hf, Nat.add_sub_cancel' hlow, mul_assoc, ← pow_add, hexp]

/-- Units scaled by `2^(1074 - k)` are a fraction over `2^k` (R17). -/
theorem units_div (m : Nat) {k : Nat} (hk : k ≤ 1074) :
    ((m * 2 ^ (1074 - k) : ℕ) : ℚ) / (2 ^ 1074 : ℕ) = m / (2 ^ k : ℕ) := by
  have hsplit : 2 ^ 1074 = 2 ^ k * 2 ^ (1074 - k) := by rw [← pow_add, Nat.add_sub_cancel' hk]
  have hpos : ((2 ^ (1074 - k) : ℕ) : ℚ) ≠ 0 := Nat.cast_ne_zero.2 (by positivity)
  rw [hsplit, Nat.cast_mul, Nat.cast_mul, mul_div_mul_right _ _ hpos]

/-- The word of all zeros is plain and has the value 0 (R17). -/
theorem f64_zero : F64Plain 0 ∧ f64Val 0 = 0 := by
  refine ⟨⟨by decide, fun _ => rfl⟩, ?_⟩
  have hunits : f64Units 0 = 0 := by decide
  rw [f64Val_of_sign_false (by decide), hunits, Nat.cast_zero, zero_div]

/-- `f64enc` writes 0 as `+0.0` (R17). -/
theorem f64Enc_zero : f64Enc 0 = 0 :=
  f64_zero.2 ▸ f64EncodingInvertsValue 0 f64_zero.1.1 (by decide)

/-- Every fraction `z / 2^k` with a numerator of at most 53 bits is the value of a plain word (R80). -/
theorem exists_f64_of_dyadic {z : ℤ} {k : Nat} (hz : z.natAbs < 2 ^ 53) (hk : k ≤ 1022) :
    ∃ b, F64Plain b ∧ f64Val b = z / (2 ^ k : ℕ) := by
  by_cases hz0 : z = 0
  · exact ⟨0, f64_zero.1, by rw [f64_zero.2, hz0, Int.cast_zero, zero_div]⟩
  obtain ⟨b, hplain, hsign, hunits⟩ :=
    exists_f64_of_magnitude (decide (z < 0)) (Int.natAbs_ne_zero.2 hz0) hz hk
  have hmag : (f64Units b : ℚ) / (2 ^ 1074 : ℕ) = |(z : ℚ)| / (2 ^ k : ℕ) := by
    rw [hunits, units_div _ (by omega), Nat.cast_natAbs, Int.cast_abs]
  refine ⟨b, hplain, ?_⟩
  rcases lt_or_ge z 0 with hneg | hnonneg
  · rw [f64Val_of_sign_true (hsign.trans (decide_eq_true hneg)), hmag,
      abs_of_neg (Int.cast_lt_zero.2 hneg), neg_div, neg_neg]
  · rw [f64Val_of_sign_false (hsign.trans (decide_eq_false hnonneg.not_gt)), hmag,
      abs_of_nonneg (Int.cast_nonneg hnonneg)]

/-- `f64enc` writes such a fraction exactly, as a plain word (R17, R80). -/
theorem f64Enc_of_dyadic {z : ℤ} {k : Nat} (hz : z.natAbs < 2 ^ 53) (hk : k ≤ 1022) :
    F64Plain (f64Enc (z / (2 ^ k : ℕ))) ∧
      f64Val (f64Enc (z / (2 ^ k : ℕ))) = z / (2 ^ k : ℕ) := by
  obtain ⟨b, hplain, hval⟩ := exists_f64_of_dyadic hz hk
  have hnegzero : b ≠ 0x8000000000000000#64 := by
    rintro rfl
    exact absurd (hplain.2 (by decide)) (by decide)
  rw [← hval, f64EncodingInvertsValue b hplain.1 hnegzero]
  exact ⟨hplain, rfl⟩

/-! ### The bounds of a cell as words -/

/-- A bound's distance from 0, the middle of its axis, in cells of the axis (R78). -/
theorem bound_eq_of_middle (i : Nat) (ax : Axis) (m : Nat) :
    bound i ax (m + 1) = Config.axisRange ax * ((i : ℚ) - 2 ^ m) / (2 ^ (m + 1) : ℕ) := by
  have hpow : (2 : ℚ) ^ m ≠ 0 := by positivity
  rw [bound, axisMin_eq, pow_succ]
  push_cast
  field_simp
  ring

/-- Every bound is a multiple of `180 / 2^step`, at most `2^step` of them from 0 (R80, R85). -/
theorem exists_bound_eq {i : Nat} (ax : Axis) {n : Nat} (hi : i ≤ 2 ^ n) (hn : 1 ≤ n) :
    ∃ z : ℤ, z.natAbs ≤ 2 ^ n ∧ bound i ax n = (180 * z : ℤ) / (2 ^ n : ℕ) := by
  obtain ⟨m, rfl⟩ := Nat.exists_eq_add_of_le' hn
  have hdouble : 2 ^ (m + 1) = 2 * 2 ^ m := pow_succ' 2 m
  rw [bound_eq_of_middle]
  cases ax with
  | lat => exact ⟨(i : ℤ) - (2 ^ m : ℕ), by omega, by simp [Config.axisRange]⟩
  | lon =>
    refine ⟨2 * ((i : ℤ) - (2 ^ m : ℕ)), by omega, congrArg (· / _) ?_⟩
    rw [Config.axisRange]
    push_cast
    ring

/-- `f64enc` writes every bound of a legal precision exactly, as a plain word (R80). -/
theorem f64Enc_bound {i : Nat} (ax : Axis) {n : Nat} (hi : i ≤ 2 ^ n) (hn : 1 ≤ n) (hn' : n ≤ 32) :
    F64Plain (f64Enc (bound i ax n)) ∧ f64Val (f64Enc (bound i ax n)) = bound i ax n := by
  obtain ⟨z, hz, hbound⟩ := exists_bound_eq ax hi hn
  have hpow : 2 ^ n ≤ 2 ^ 32 := Nat.pow_le_pow_right (by decide) hn'
  rw [hbound]
  exact f64Enc_of_dyadic (by omega) (by omega)

/-- A bound other than 0 has a magnitude between `180 / 2^32` and 180 (R85). -/
theorem abs_bound {i : Nat} {ax : Axis} {n : Nat} (hi : i ≤ 2 ^ n) (hn : 1 ≤ n) (hn' : n ≤ 32)
    (hne : bound i ax n ≠ 0) :
    180 / (2 ^ 32 : ℕ) ≤ |bound i ax n| ∧ |bound i ax n| ≤ 180 := by
  obtain ⟨z, hz, hbound⟩ := exists_bound_eq ax hi hn
  have hpos : (0 : ℚ) < (2 ^ n : ℕ) := Nat.cast_pos.2 (by positivity)
  have hpow : ((2 ^ n : ℕ) : ℚ) ≤ (2 ^ 32 : ℕ) :=
    Nat.cast_le.2 (Nat.pow_le_pow_right (by decide) hn')
  have hz0 : z ≠ 0 := by
    rintro rfl
    simp [hbound] at hne
  have habs : |bound i ax n| = 180 * (z.natAbs : ℚ) / (2 ^ n : ℕ) := by
    rw [hbound, abs_div, Nat.abs_cast, Int.cast_mul, abs_mul, Nat.cast_natAbs, Int.cast_abs]
    norm_num
  have hone : (1 : ℚ) ≤ z.natAbs := Nat.one_le_cast.2 (Int.natAbs_pos.2 hz0)
  have hle : (z.natAbs : ℚ) ≤ (2 ^ n : ℕ) := Nat.cast_le.2 hz
  rw [habs]
  constructor
  · exact div_le_div₀ (by positivity) (by linarith) hpos hpow
  · rw [div_le_iff₀ hpos]
    linarith

/-- The word of a bound is a legal coordinate (R75, R80). -/
theorem legalCoordinate_f64Enc_bound {i : Nat} (ax : Axis) {n : Nat} (hi : i ≤ 2 ^ n) (hn : 1 ≤ n)
    (hn' : n ≤ 32) : legalCoordinate ax (f64Enc (bound i ax n)) := by
  obtain ⟨hplain, hval⟩ := f64Enc_bound ax hi hn hn'
  refine ⟨hplain.1, ?_, ?_⟩
  · rw [hval, ← bound_zero ax n]
    exact (bound_strictMono ax n).monotone (Nat.zero_le i)
  · rw [hval, ← bound_two_pow ax n]
    exact (bound_strictMono ax n).monotone hi

/-! ### What DECODE answers -/

/-- A code is canonical exactly when its indices are below `2^step` (R81). -/
theorem canonical_iff_dl_lt {c : Word} {n : Nat} :
    canonical c n ↔ (dl c).1.toNat < 2 ^ n ∧ (dl c).2.toNat < 2 ^ n := by
  rw [← canonical_il_iff, il_dl]

/-- At a precision of at most 32 the active bits are a word's remainder modulo `2^(2 step)` (R15). -/
theorem maskCode_toNat (c : Word) {n : Nat} (hn : n ≤ 32) :
    (maskCode c n).toNat = c.toNat % 2 ^ (2 * n) := by
  have hpow : 2 ^ (2 * n) ≤ 2 ^ 64 := Nat.pow_le_pow_right (by decide) (by omega)
  have hpos : 0 < 2 ^ (2 * n) := by positivity
  rw [maskCode, active, BitVec.toNat_and, BitVec.toNat_ofNat, Nat.mod_eq_of_lt (by omega),
    Nat.and_two_pow_sub_one_eq_mod]

/-- A masked code is canonical (R81). -/
theorem maskCode_canonical (c : Word) {n : Nat} (hn : n ≤ 32) : canonical (maskCode c n) n := by
  rw [canonical, maskCode_toNat c hn]
  exact Nat.mod_lt _ (by positivity)

/-- Masking leaves a canonical code as it is (R81). -/
theorem maskCode_of_canonical {c : Word} {n : Nat} (hn : n ≤ 32) (hc : canonical c n) :
    maskCode c n = c := by
  rw [← BitVec.toNat_inj, maskCode_toNat c hn, Nat.mod_eq_of_lt hc]

namespace Machine

/-- At a legal precision DECODE answers the four bounds alone (R79). -/
theorem decodeResponse_of_legal {step : StepField} (hstep : legalStep step) (q : Request) :
    decodeResponse step q = .ofWords (cellBounds q.a[0] step.toNat) := by
  rw [decodeResponse, precisionFlag_of_legal hstep, Response.orRaise_zero]

/-- At a legal precision the transaction answers the four bounds alone (R19, R79). -/
theorem respond_decode_of_legal {step : StepField} (hstep : legalStep step) (d : DirField)
    (c : Word) :
    respond (requestOf (.decode step d) [c]) = .ofWords (cellBounds c step.toNat) :=
  (respond_requestOf _ _).trans (decodeResponse_of_legal hstep _)

/-- DECODE's four words are words of bounds of their axes (R79). -/
theorem exists_bound_of_mem_cellBounds {c b : Word} {n : Nat} (hn : n ≤ 32)
    (hb : b ∈ cellBounds c n) : ∃ i ax, i ≤ 2 ^ n ∧ b = f64Enc (bound i ax n) := by
  obtain ⟨hlat, hlon⟩ := canonical_iff_dl_lt.1 (maskCode_canonical c hn)
  simp only [cellBounds, List.mem_cons, List.not_mem_nil, or_false] at hb
  rcases hb with rfl | rfl | rfl | rfl
  · exact ⟨_, .lat, hlat.le, rfl⟩
  · exact ⟨_, .lat, hlat, rfl⟩
  · exact ⟨_, .lon, hlon.le, rfl⟩
  · exact ⟨_, .lon, hlon, rfl⟩

/-- The values of the four words are the bounds of the cell the active bits name (R79, R80). -/
theorem cellBounds_spec (c : Word) {n : Nat} (hn : 1 ≤ n) (hn' : n ≤ 32) :
    ∃ b₀ b₁ b₂ b₃, cellBounds c n = [b₀, b₁, b₂, b₃] ∧
      f64Val b₀ = bound (dl (maskCode c n)).1.toNat .lat n ∧
      f64Val b₁ = bound ((dl (maskCode c n)).1.toNat + 1) .lat n ∧
      f64Val b₂ = bound (dl (maskCode c n)).2.toNat .lon n ∧
      f64Val b₃ = bound ((dl (maskCode c n)).2.toNat + 1) .lon n := by
  obtain ⟨hlat, hlon⟩ := canonical_iff_dl_lt.1 (maskCode_canonical c hn')
  exact ⟨_, _, _, _, rfl, (f64Enc_bound .lat hlat.le hn hn').2, (f64Enc_bound .lat hlat hn hn').2,
    (f64Enc_bound .lon hlon.le hn hn').2, (f64Enc_bound .lon hlon hn hn').2⟩

end Machine

/-- Settles O38: each word is `f64enc` of a bound, which writes it exactly. -/
theorem decodeResult : Obligations.DecodeResult := by
  intro n d s p rest hp hn
  obtain ⟨b₀, b₁, b₂, b₃, hwords, hvalues⟩ := Machine.cellBounds_spec p.req.a[0] hn.1 hn.2
  refine ⟨b₀, b₁, b₂, b₃, ?_, fun b hb => ?_, hvalues⟩
  · rw [Machine.exec_eq_answer, Machine.State.answer_cons _ hp, Machine.responseOf,
      Machine.decodeResponse_of_legal hn, hwords]
    rfl
  · obtain ⟨i, ax, hi, rfl⟩ := Machine.exists_bound_of_mem_cellBounds hn.2 (hwords ▸ hb)
    exact (f64Enc_bound ax hi hn.1 hn.2).1.1

/-- Settles O39: the words are plain, and a word other than `+0.0` writes a bound other than 0. -/
theorem decodeAnswersPlainNumbers : Obligations.DecodeAnswersPlainNumbers := by
  intro code n d k hk hn
  have hmem : (Machine.respond (Machine.requestOf (.decode n d) [code])).r[k] ∈
      Machine.cellBounds code n.toNat := by
    rw [Machine.respond_decode_of_legal hn, Response.ofWords_r, getElem_vec9,
      List.getD_eq_getElem _ _ (by simpa [Machine.cellBounds] using hk)]
    exact List.getElem_mem _
  obtain ⟨i, ax, hi, hb⟩ := Machine.exists_bound_of_mem_cellBounds hn.2 hmem
  obtain ⟨hplain, hval⟩ := f64Enc_bound ax hi hn.1 hn.2
  simp only [hb]
  refine ⟨hplain.1, hplain.2, fun hne => ?_⟩
  rw [hval]
  exact abs_bound hi hn.1 hn.2 fun h0 => hne (h0 ▸ f64Enc_zero)

/-! ### Encoding and decoding together -/

namespace Machine

/-- The values of the four words DECODE answers to a canonical code are the bounds of the cell its
indices name (R79, R80). -/
theorem f64Val_decode {step : StepField} (hstep : legalStep step) (d : DirField) {c : Word}
    (hc : canonical c step.toNat) :
    let box := respond (requestOf (.decode step d) [c])
    f64Val box.r[0] = bound (dl c).1.toNat .lat step.toNat ∧
      f64Val box.r[1] = bound ((dl c).1.toNat + 1) .lat step.toNat ∧
      f64Val box.r[2] = bound (dl c).2.toNat .lon step.toNat ∧
      f64Val box.r[3] = bound ((dl c).2.toNat + 1) .lon step.toNat := by
  obtain ⟨b₀, b₁, b₂, b₃, hwords, hvalues⟩ := cellBounds_spec c hstep.1 hstep.2
  rw [maskCode_of_canonical hstep.2 hc] at hvalues
  rw [respond_decode_of_legal hstep, hwords]
  exact hvalues

end Machine

/-- Latitude ends at 90 degrees (R8). -/
theorem axisMax_lat : Config.axisMax .lat = 90 := rfl

/-- Longitude ends at 180 degrees (R8). -/
theorem axisMax_lon : Config.axisMax .lon = 180 := rfl

/-- Settles O41: the indices of the code name the cells that hold the coordinates, and DECODE answers the
bounds of these cells. -/
theorem encodedPointLiesInItsBox : Obligations.EncodedPointLiesInItsBox := by
  rintro lat lon _ n d d' hn hlat hlon rfl
  have hcode : (Machine.respond (Machine.requestOf (.encode n d) [lat, lon])).r[0] =
      Machine.encodeCode lat lon n.toNat := by
    rw [Machine.respond_encode_of_legal hn hlat hlon]
    rfl
  obtain ⟨hsouth, hnorth, hwest, heast⟩ :=
    Machine.f64Val_decode hn d' (Machine.encodeCode_canonical lat lon hn.2)
  rw [Machine.dl_encodeCode] at hsouth hnorth hwest heast
  have hlatCell := (inCell_iff_quantWord hlat hn.2 _).2 rfl
  have hlonCell := (inCell_iff_quantWord hlon hn.2 _).2 rfl
  simp only [hcode, hsouth, hnorth, hwest, heast]
  exact ⟨hlatCell.lower_le, hlatCell.le_upper, hlonCell.lower_le, hlonCell.le_upper,
    hlatCell.lt_upper, hlonCell.lt_upper⟩

/-! ### The inverse image of a code -/

/-- Two indices are those of a code exactly when they interleave to it (R67). -/
theorem il_eq_iff (x y : Index) (c : Word) :
    il x y = c ↔ x.toNat = (dl c).1.toNat ∧ y.toNat = (dl c).2.toNat := by
  rw [BitVec.toNat_inj, BitVec.toNat_inj, ← Prod.mk.injEq, Prod.mk.eta]
  constructor
  · rintro rfl
    exact (dl_il x y).symm
  · intro h
    rw [← il_dl c, ← h]

/-- A move up by one below the grid's last index adds 1 (R87). -/
theorem moveIndex_plus_toNat {p : Index} {n : Nat} (hn : n ≤ 32) (hp : p.toNat + 1 < 2 ^ n) :
    (moveIndex p .plus n).toNat = p.toNat + 1 := by
  have hpow : 2 ^ n ≤ 2 ^ 32 := Nat.pow_le_pow_right (by decide) hn
  have hmod : ((p.toNat : ℤ) + 1) % (2 ^ n : ℕ) = ((p.toNat + 1 : ℕ) : ℤ) := by
    rw [← Nat.cast_succ, ← Int.natCast_mod, Nat.mod_eq_of_lt hp]
  rw [moveIndex, Direction.toInt, hmod, BitVec.ofInt_natCast, BitVec.toNat_ofNat,
    Nat.mod_eq_of_lt (by omega)]

/-- A move north and a move east move each index (R87, R94). -/
theorem dl_move_lat_lon (c : Word) (d e : Direction) (n : Nat) :
    dl (move (move c .lat d n) .lon e n) = (moveIndex (dl c).1 d n, moveIndex (dl c).2 e n) := by
  simp [move]

/-- The north-east neighbour of a cell off the grid's northern and eastern edges has both indices one
higher (R87, R92). -/
theorem dl_northEast {c : Word} {n : Nat} (hn : n ≤ 32) (hx : (dl c).1.toNat + 1 < 2 ^ n)
    (hy : (dl c).2.toNat + 1 < 2 ^ n) :
    (dl (move (move c .lat .plus n) .lon .plus n)).1.toNat = (dl c).1.toNat + 1 ∧
      (dl (move (move c .lat .plus n) .lon .plus n)).2.toNat = (dl c).2.toNat + 1 := by
  rw [dl_move_lat_lon]
  exact ⟨moveIndex_plus_toNat hn hx, moveIndex_plus_toNat hn hy⟩

namespace Machine

/-- Legal words with the values of the lower bounds of a canonical code's cell are encoded to that code
(R86). -/
theorem respond_encode_bounds {step : StepField} (hstep : legalStep step) (d : DirField)
    {lat lon c : Word} (hlat : legalCoordinate .lat lat) (hlon : legalCoordinate .lon lon)
    (hc : canonical c step.toNat)
    (hlatVal : f64Val lat = bound (dl c).1.toNat .lat step.toNat)
    (hlonVal : f64Val lon = bound (dl c).2.toNat .lon step.toNat) :
    respond (requestOf (.encode step d) [lat, lon]) =
      ⟨0#3, 1#4, #v[c, 0, 0, 0, 0, 0, 0, 0, 0], noBounds⟩ := by
  obtain ⟨hx, hy⟩ := canonical_iff_dl_lt.1 hc
  have hcode : encodeCode lat lon step.toNat = c := by
    rw [encodeCode, il_eq_iff, ← inCell_iff_quantWord hlat hstep.2,
      ← inCell_iff_quantWord hlon hstep.2, hlatVal, hlonVal]
    exact ⟨inCell_bound .lat hx, inCell_bound .lon hy⟩
  rw [respond_encode_of_legal hstep hlat hlon, hcode]
  rfl

/-- ENCODE answers a canonical code exactly for the values its two cells hold (R86). -/
theorem respond_encode_eq_iff {step : StepField} (hstep : legalStep step) (d : DirField)
    {lat lon : Word} (hlat : legalCoordinate .lat lat) (hlon : legalCoordinate .lon lon) (c : Word) :
    (respond (requestOf (.encode step d) [lat, lon])).r[0] = c ↔
      inCell (f64Val lat) .lat step.toNat (dl c).1.toNat ∧
        inCell (f64Val lon) .lon step.toNat (dl c).2.toNat := by
  rw [respond_encode_of_legal hstep hlat hlon, inCell_iff_quantWord hlat hstep.2,
    inCell_iff_quantWord hlon hstep.2, ← il_eq_iff]
  exact Iff.rfl

/-- DECODE's words are legal coordinates of their axes (R80, R85). -/
theorem legalCoordinate_decode {step : StepField} (hstep : legalStep step) (d : DirField) (c : Word) :
    let box := respond (requestOf (.decode step d) [c])
    legalCoordinate .lat box.r[0] ∧ legalCoordinate .lat box.r[1] ∧
      legalCoordinate .lon box.r[2] ∧ legalCoordinate .lon box.r[3] := by
  obtain ⟨hlat, hlon⟩ := canonical_iff_dl_lt.1 (maskCode_canonical c hstep.2)
  rw [respond_decode_of_legal hstep]
  exact ⟨legalCoordinate_f64Enc_bound .lat hlat.le hstep.1 hstep.2,
    legalCoordinate_f64Enc_bound .lat hlat hstep.1 hstep.2,
    legalCoordinate_f64Enc_bound .lon hlon.le hstep.1 hstep.2,
    legalCoordinate_f64Enc_bound .lon hlon hstep.1 hstep.2⟩

end Machine

/-- Settles O42: ENCODE answers a code for the values its cells hold, and the upper-right corner is the
lower-left corner of the north-east neighbour. -/
theorem boxIsTheInverseImageOfItsCode : Obligations.BoxIsTheInverseImageOfItsCode := by
  intro c n d d' hn hc
  obtain ⟨hx, hy⟩ := canonical_iff_dl_lt.1 hc
  obtain ⟨hsouth, hnorth, hwest, heast⟩ := Machine.f64Val_decode hn d' hc
  obtain ⟨hsouthLegal, hnorthLegal, hwestLegal, heastLegal⟩ := Machine.legalCoordinate_decode hn d' c
  refine ⟨fun lat lon hlat hlon => ?image, ?corner, fun hnorthNe heastNe => ?neighbour⟩
  case image =>
    rw [Machine.respond_encode_eq_iff hn d hlat hlon, inCell_iff hx, inCell_iff hy, axisMax_lat,
      axisMax_lon, hsouth, hnorth, hwest, heast]
  case corner => exact Machine.respond_encode_bounds hn d hsouthLegal hwestLegal hc hsouth hwest
  case neighbour =>
    have hxLast : (dl c).1.toNat + 1 ≠ 2 ^ n.toNat := fun h =>
      hnorthNe (hnorth.trans ((bound_eq_axisMax_iff _ .lat _).2 h))
    have hyLast : (dl c).2.toNat + 1 ≠ 2 ^ n.toNat := fun h =>
      heastNe (heast.trans ((bound_eq_axisMax_iff _ .lon _).2 h))
    have hxNext : (dl c).1.toNat + 1 < 2 ^ n.toNat := lt_of_le_of_ne hx hxLast
    have hyNext : (dl c).2.toNat + 1 < 2 ^ n.toNat := lt_of_le_of_ne hy hyLast
    obtain ⟨hxMove, hyMove⟩ := dl_northEast hn.2 hxNext hyNext
    refine Machine.respond_encode_bounds hn d hnorthLegal heastLegal
      (canonical_iff_dl_lt.2 ⟨hxMove.trans_lt hxNext, hyMove.trans_lt hyNext⟩) ?_ ?_
    · rw [hnorth, hxMove]
    · rw [heast, hyMove]

end Sys2Proof

/-! PROOFS. The statements about the neighbour engine (spec/42_neighbor_engine.md): moves and neighbours
as shifts of the two indices (R87 to R95, R99), which neighbours are neighbouring integers (R98), and the
mask datapath (R96). -/

namespace Sys2Proof

/-! ### An index shifted modulo `2^step` -/

/-- `(p + k) mod 2^step`, for any number of steps `k` on one axis (R87, R92). -/
def shiftIndex (p : Index) (k : ℤ) (n : Nat) : Index :=
  BitVec.ofInt 32 (((p.toNat : ℤ) + k) % ((2 ^ n : Nat) : ℤ))

/-- One step of a move is a shift by its direction (R50, R87). -/
theorem moveIndex_eq_shiftIndex (p : Index) (d : Direction) (n : Nat) :
    moveIndex p d n = shiftIndex p d.toInt n := rfl

/-- At a precision of at most 32 the remainder fits an index (R137). -/
theorem shiftIndex_toNat (p : Index) (k : ℤ) {n : Nat} (hn : n ≤ 32) :
    ((shiftIndex p k n).toNat : ℤ) = ((p.toNat : ℤ) + k) % ((2 ^ n : Nat) : ℤ) := by
  have hpow : ((2 ^ n : ℕ) : ℤ) ≤ (2 ^ 32 : ℕ) := by
    exact_mod_cast Nat.pow_le_pow_right (by decide) hn
  have hnonneg := Int.emod_nonneg ((p.toNat : ℤ) + k) (b := (2 ^ n : ℕ)) (by positivity)
  have hlt := Int.emod_lt_of_pos ((p.toNat : ℤ) + k) (b := (2 ^ n : ℕ)) (by positivity)
  rw [shiftIndex, BitVec.toNat_ofInt, Int.emod_eq_of_lt hnonneg (hlt.trans_le hpow),
    Int.toNat_of_nonneg hnonneg]

/-- A shifted index is an index of the grid (R92). -/
theorem shiftIndex_lt (p : Index) (k : ℤ) {n : Nat} (hn : n ≤ 32) :
    (shiftIndex p k n).toNat < 2 ^ n := by
  rw [← Nat.cast_lt (α := ℤ), shiftIndex_toNat p k hn]
  exact Int.emod_lt_of_pos _ (by positivity)

/-- Shifts add up (R87). -/
theorem shiftIndex_shiftIndex (p : Index) (i j : ℤ) {n : Nat} (hn : n ≤ 32) :
    shiftIndex (shiftIndex p i n) j n = shiftIndex p (i + j) n := by
  rw [shiftIndex, shiftIndex_toNat p i hn, Int.emod_add_emod, add_assoc]
  rfl

/-- An index of the grid is the other's shifted by their difference. -/
theorem shiftIndex_sub (p : Index) {x : Index} {n : Nat} (hx : x.toNat < 2 ^ n) :
    shiftIndex p ((x.toNat : ℤ) - p.toNat) n = x := by
  rw [shiftIndex, add_sub_cancel, ← Int.natCast_mod, Nat.mod_eq_of_lt hx, BitVec.ofInt_natCast,
    BitVec.ofNat_toNat, BitVec.setWidth_eq]

/-- No shift leaves an index of the grid as it is (R89). -/
theorem shiftIndex_zero {x : Index} {n : Nat} (hx : x.toNat < 2 ^ n) : shiftIndex x 0 n = x := by
  simpa using shiftIndex_sub x hx

/-- Two shifts of an index agree exactly when they differ by a multiple of `2^step`. -/
theorem shiftIndex_eq_iff (p : Index) (i j : ℤ) {n : Nat} (hn : n ≤ 32) :
    shiftIndex p i n = shiftIndex p j n ↔ i ≡ j [ZMOD (2 ^ n : ℕ)] := by
  rw [← BitVec.toNat_inj, ← Nat.cast_inj (R := ℤ), shiftIndex_toNat p i hn, shiftIndex_toNat p j hn]
  exact Int.emod_add_cancel_left

/-- Settles O46: upwards the sum stays below `2^step` or equals it, downwards it stays at least 0 or
is -1. -/
theorem movesWrapAtTheGridEdge : Obligations.MovesWrapAtTheGridEdge := by
  intro n x hn hn' hx
  refine ⟨?plus, ?minus, ?stay⟩
  case plus =>
    split_ifs with hlast
    · have hsum : (x.toNat : ℤ) + 1 = (2 ^ n : ℕ) := by omega
      have hmove := shiftIndex_toNat x 1 hn'
      rw [hsum, Int.emod_self] at hmove
      exact Int.natCast_eq_zero.1 hmove
    · exact moveIndex_plus_toNat hn' (by omega)
  case minus =>
    have hmove := shiftIndex_toNat x (-1) hn'
    split_ifs with hfirst
    · have hwrap : ((x.toNat : ℤ) + -1) % (2 ^ n : ℕ) = (2 ^ n : ℕ) - 1 := by
        rw [hfirst, ← Int.add_emod_right, Int.emod_eq_of_lt] <;> omega
      rw [moveIndex_eq_shiftIndex, Direction.toInt]
      omega
    · rw [Int.emod_eq_of_lt (by omega) (by omega)] at hmove
      rw [moveIndex_eq_shiftIndex, Direction.toInt]
      omega
  case stay => exact shiftIndex_zero hx

/-! ### A code shifted on both axes -/

/-- The code whose index pair is that of `c` shifted by the pair `o`, each modulo `2^step` (R93, R95 (e)). -/
def shiftCode (c : Word) (o : ℤ × ℤ) (n : Nat) : Word :=
  il (shiftIndex (dl c).1 o.1 n) (shiftIndex (dl c).2 o.2 n)

/-- The shift by `k` on one axis. -/
def Axis.shift : Axis → ℤ → ℤ × ℤ
  | .lat, k => (k, 0)
  | .lon, k => (0, k)

/-- Shifts on one axis add up. -/
theorem Axis.shift_add (ax : Axis) (j k : ℤ) : ax.shift j + ax.shift k = ax.shift (j + k) := by
  cases ax <;> simp [Axis.shift]

/-- No step on an axis is no shift. -/
theorem Axis.shift_zero (ax : Axis) : ax.shift 0 = 0 := by cases ax <;> rfl

/-- The indices of a shifted code. -/
@[simp] theorem dl_shiftCode (c : Word) (o : ℤ × ℤ) (n : Nat) :
    dl (shiftCode c o n) = (shiftIndex (dl c).1 o.1 n, shiftIndex (dl c).2 o.2 n) :=
  dl_il _ _

/-- A shifted code is canonical, whatever the code (R95 (c)). -/
theorem shiftCode_canonical (c : Word) (o : ℤ × ℤ) {n : Nat} (hn : n ≤ 32) :
    canonical (shiftCode c o n) n :=
  (canonical_il_iff _ _ n).2 ⟨shiftIndex_lt _ _ hn, shiftIndex_lt _ _ hn⟩

/-- A canonical code is any code shifted by the difference of their indices. -/
theorem shiftCode_sub (c : Word) {v : Word} {n : Nat} (hv : canonical v n) :
    shiftCode c ((dl v).1.toNat - (dl c).1.toNat, (dl v).2.toNat - (dl c).2.toNat) n = v := by
  obtain ⟨hp, hq⟩ := canonical_iff_dl_lt.1 hv
  rw [shiftCode, shiftIndex_sub _ hp, shiftIndex_sub _ hq, il_dl]

/-- No shift leaves a canonical code as it is (R89). -/
theorem shiftCode_zero {c : Word} {n : Nat} (hc : canonical c n) : shiftCode c 0 n = c := by
  obtain ⟨hp, hq⟩ := canonical_iff_dl_lt.1 hc
  rw [shiftCode, Prod.fst_zero, Prod.snd_zero, shiftIndex_zero hp, shiftIndex_zero hq, il_dl]

/-- Two shifts of a code agree exactly when they agree modulo `2^step` on both axes (R95 (d)). -/
theorem shiftCode_eq_iff (c : Word) (o o' : ℤ × ℤ) {n : Nat} (hn : n ≤ 32) :
    shiftCode c o n = shiftCode c o' n ↔
      o.1 ≡ o'.1 [ZMOD (2 ^ n : ℕ)] ∧ o.2 ≡ o'.2 [ZMOD (2 ^ n : ℕ)] := by
  rw [← shiftIndex_eq_iff (dl c).1 _ _ hn, ← shiftIndex_eq_iff (dl c).2 _ _ hn, ← Prod.mk.injEq,
    ← dl_shiftCode, ← dl_shiftCode]
  exact ⟨congrArg dl, fun h => by rw [← il_dl (shiftCode c o n), h, il_dl]⟩

/-- A shifted code's indices are the sums modulo `2^step` (R93). -/
theorem shiftedIndices_shiftCode (c : Word) (i j : ℤ) {n : Nat} (hn : n ≤ 32) :
    shiftedIndices (dl c).1 (dl c).2 i j n (shiftCode c (i, j) n) := by
  rw [shiftedIndices, dl_shiftCode]
  exact ⟨shiftIndex_toNat _ i hn, shiftIndex_toNat _ j hn⟩

/-- A shift on both axes after another is their sum. -/
theorem shiftCode_shiftCode (c : Word) (o o' : ℤ × ℤ) {n : Nat} (hn : n ≤ 32) :
    shiftCode (shiftCode c o n) o' n = shiftCode c (o + o') n := by
  rw [shiftCode, dl_shiftCode, shiftIndex_shiftIndex _ _ _ hn, shiftIndex_shiftIndex _ _ _ hn]
  rfl

/-- A move on the latitude axis moves the first index (R87). -/
theorem move_lat (c : Word) (d : Direction) (n : Nat) :
    move c .lat d n = il (moveIndex (dl c).1 d n) (dl c).2 := rfl

/-- A move on the longitude axis moves the second index (R87). -/
theorem move_lon (c : Word) (d : Direction) (n : Nat) :
    move c .lon d n = il (dl c).1 (moveIndex (dl c).2 d n) := rfl

/-- A move of a canonical code is a shift on its axis (R87). -/
theorem move_eq_shiftCode {c : Word} {n : Nat} (hc : canonical c n) (ax : Axis) (d : Direction) :
    move c ax d n = shiftCode c (ax.shift d.toInt) n := by
  obtain ⟨hp, hq⟩ := canonical_iff_dl_lt.1 hc
  cases ax with
  | lat => rw [move_lat, shiftCode, Axis.shift, shiftIndex_zero hq, moveIndex_eq_shiftIndex]
  | lon => rw [move_lon, shiftCode, Axis.shift, shiftIndex_zero hp, moveIndex_eq_shiftIndex]

/-- A move adds its direction to a shift on its axis (R94). -/
theorem move_shiftCode (c : Word) (o : ℤ × ℤ) (ax : Axis) (d : Direction) {n : Nat} (hn : n ≤ 32) :
    move (shiftCode c o n) ax d n = shiftCode c (o + ax.shift d.toInt) n := by
  rw [move_eq_shiftCode (shiftCode_canonical c o hn), shiftCode_shiftCode c _ _ hn]

/-! ### The laws of moves -/

/-- A move of a canonical code is canonical (R95 (c)). -/
theorem move_canonical {c : Word} {n : Nat} (hn : n ≤ 32) (hc : canonical c n) (ax : Axis)
    (d : Direction) : canonical (move c ax d n) n := by
  rw [move_eq_shiftCode hc]
  exact shiftCode_canonical c _ hn

/-- Opposite moves on one axis cancel, at the grid edge too (R95 (a)). -/
theorem move_move_cancel {c : Word} {n : Nat} (hn : n ≤ 32) (hc : canonical c n) (ax : Axis)
    {d e : Direction} (hde : d.toInt + e.toInt = 0) : move (move c ax d n) ax e n = c := by
  rw [move_eq_shiftCode hc, move_shiftCode c _ ax e hn, Axis.shift_add, hde, Axis.shift_zero,
    shiftCode_zero hc]

/-- Settles O48: moves are shifts, and shifts add up. -/
theorem movesCommuteCancelAndStayCanonical : Obligations.MovesCommuteCancelAndStayCanonical := by
  intro c n _ hn hc
  refine ⟨fun d₁ d₂ => ?commute,
    fun ax => ⟨move_move_cancel hn hc ax rfl, move_move_cancel hn hc ax rfl⟩, move_canonical hn hc⟩
  case commute =>
    rw [move_eq_shiftCode hc, move_eq_shiftCode hc, move_shiftCode c _ _ _ hn,
      move_shiftCode c _ _ _ hn, add_comm]

/-- `k` moves of +1 are a shift by `k` (R95 (b)). -/
theorem iterate_move_plus {c : Word} {n : Nat} (hn : n ≤ 32) (hc : canonical c n) (ax : Axis)
    (k : Nat) : (fun v => move v ax .plus n)^[k] c = shiftCode c (ax.shift k) n := by
  induction k with
  | zero => simp [Axis.shift_zero, shiftCode_zero hc]
  | succ k ih =>
    rw [Function.iterate_succ_apply', ih, move_shiftCode c _ ax .plus hn, Axis.shift_add]
    rfl

/-- Settles O49: `2^step` moves are a shift by `2^step`, which is no shift modulo `2^step`. -/
theorem fullCircleOfMovesReturns : Obligations.FullCircleOfMovesReturns := by
  intro c ax n _ hn hc
  rw [iterate_move_plus hn hc ax]
  refine Eq.trans ?_ (shiftCode_zero hc)
  rw [shiftCode_eq_iff c _ _ hn]
  cases ax with
  | lat => exact ⟨Int.emod_self, rfl⟩
  | lon => exact ⟨rfl, Int.emod_self⟩

/-! ### The block of nine -/

/-- The shifts of the nine neighbours, in the order N, NE, E, SE, S, SW, W, NW, C (R93). -/
def blockShifts : List (ℤ × ℤ) :=
  [(1, 0), (1, 1), (0, 1), (-1, 1), (-1, 0), (-1, -1), (0, -1), (1, -1), (0, 0)]

/-- They are all the shifts by at most one on each axis (R95 (e)). -/
theorem mem_blockShifts (o : ℤ × ℤ) : o ∈ blockShifts ↔ |o.1| ≤ 1 ∧ |o.2| ≤ 1 := by
  obtain ⟨i, j⟩ := o
  simp only [blockShifts, List.mem_cons, Prod.mk.injEq, List.not_mem_nil, or_false, abs_le]
  omega

/-- The nine codes around a canonical code are its nine shifts (R93). -/
theorem neighborCodes_eq_map {c : Word} {n : Nat} (hn : n ≤ 32) (hc : canonical c n) :
    neighborCodes c n = blockShifts.map fun o => shiftCode c o n := by
  simp only [neighborCodes, move_eq_shiftCode hc, move_shiftCode c _ _ _ hn, blockShifts, List.map]
  rw [show ((0, 0) : ℤ × ℤ) = 0 from rfl, shiftCode_zero hc]
  rfl

/-- From precision 2 on `2^step` is at least 4, so -1, 0 and 1 are distinct modulo it (R95 (d)). -/
theorem eq_of_modEq_two_pow {n : Nat} (hn : 2 ≤ n) {i j : ℤ} (hi : |i| ≤ 1) (hj : |j| ≤ 1)
    (h : i ≡ j [ZMOD (2 ^ n : ℕ)]) : i = j := by
  have hpow : 2 ^ 2 ≤ 2 ^ n := Nat.pow_le_pow_right (by decide) hn
  rw [abs_le] at hi hj
  have hdiff : |j - i| < (2 ^ n : ℕ) := abs_lt.2 (by omega)
  have hzero := Int.eq_zero_of_abs_lt_dvd h.dvd hdiff
  omega

/-- Settles O50: from precision 2 on the nine shifts are distinct modulo `2^step`; at precision 1 any two indices differ by at most 1. -/
theorem neighborsAreDistinctFromStepTwo : Obligations.NeighborsAreDistinctFromStepTwo := by
  intro c n _ hn hc
  rw [neighborCodes_eq_map hn hc]
  refine ⟨fun hn2 => ?distinct, ?grid⟩
  case distinct =>
    refine List.Nodup.map_on (fun o ho o' ho' h => ?_) (by decide)
    obtain ⟨hlat, hlon⟩ := (shiftCode_eq_iff c o o' hn).1 h
    obtain ⟨ho₁, ho₂⟩ := (mem_blockShifts o).1 ho
    obtain ⟨ho₁', ho₂'⟩ := (mem_blockShifts o').1 ho'
    exact Prod.ext (eq_of_modEq_two_pow hn2 ho₁ ho₁' hlat)
      (eq_of_modEq_two_pow hn2 ho₂ ho₂' hlon)
  case grid =>
    rintro rfl v
    obtain ⟨hp, hq⟩ := canonical_iff_dl_lt.1 hc
    rw [List.mem_map]
    constructor
    · rintro ⟨o, -, rfl⟩
      exact shiftCode_canonical c o hn
    · intro hv
      obtain ⟨hx, hy⟩ := canonical_iff_dl_lt.1 (show canonical v 1 from hv)
      refine ⟨_, (mem_blockShifts _).2 ?_, shiftCode_sub c hv⟩
      simp only [abs_le]
      omega

/-! ### What the operations answer -/

namespace Machine

/-- The row of R57 that moves along an axis in a direction. -/
def moveRow (n : StepField) : Axis → Direction → Instr
  | .lat, .stay => .moveLatStay n
  | .lat, .plus => .moveLatNorth n
  | .lat, .minus => .moveLatSouth n
  | .lon, .stay => .moveLonStay n
  | .lon, .plus => .moveLonEast n
  | .lon, .minus => .moveLonWest n

/-- Each row of a MOVE computes the move along its axis in its direction (R90, R91). -/
theorem responseOf_moveRow (n : StepField) (ax : Axis) (d : Direction) :
    responseOf (moveRow n ax d) = moveResponse ax d n := by
  cases ax with
  | lat => cases d <;> rfl
  | lon => cases d <;> rfl

/-- The rows of an axis and the numbers they move by are those of the three directions (R50). -/
theorem exists_direction_of_mem {n : StepField} {ax : Axis} {i : Instr} {e : ℤ}
    (h : (i, e) ∈ [(moveRow n ax .stay, (0 : ℤ)), (moveRow n ax .plus, 1), (moveRow n ax .minus, -1)]) :
    ∃ d : Direction, i = moveRow n ax d ∧ e = d.toInt := by
  simp only [List.mem_cons, List.not_mem_nil, or_false, Prod.mk.injEq] at h
  rcases h with ⟨rfl, rfl⟩ | ⟨rfl, rfl⟩ | ⟨rfl, rfl⟩
  · exact ⟨.stay, rfl, rfl⟩
  · exact ⟨.plus, rfl, rfl⟩
  · exact ⟨.minus, rfl, rfl⟩

/-- At a legal precision a MOVE answers the masked operand shifted on its axis, alone (R90, R91). -/
theorem exec_moveRow {n : StepField} {s : State} {p : Pending} {rest : List Pending} (ax : Axis)
    (d : Direction) (hp : s.pending = p :: rest) (hn : legalStep n) :
    exec (moveRow n ax d) s = .next (s.afterAnswer rest
      ⟨0#3, 1#4, #v[shiftCode (maskCode p.req.a[0] n.toNat) (ax.shift d.toInt) n.toNat,
        0, 0, 0, 0, 0, 0, 0, 0], noBounds⟩) := by
  rw [exec_eq_answer, State.answer_cons _ hp, responseOf_moveRow, moveResponse,
    precisionFlag_of_legal hn, Response.orRaise_zero, move_eq_shiftCode (maskCode_canonical _ hn.2)]
  rfl

/-- At a legal precision NEIGHBORS answers the nine shifts of the masked operand (R93). -/
theorem exec_neighbors {n : StepField} {s : State} {p : Pending} {rest : List Pending}
    (d : DirField) (hp : s.pending = p :: rest) (hn : legalStep n) :
    exec (.neighbors n d) s = .next (s.afterAnswer rest
      ⟨0#3, 9#4, vec9 0 (blockShifts.map fun o => shiftCode (maskCode p.req.a[0] n.toNat) o n.toNat),
        noBounds⟩) := by
  rw [exec_eq_answer, State.answer_cons _ hp, responseOf, neighborsResponse,
    precisionFlag_of_legal hn, Response.orRaise_zero,
    neighborCodes_eq_map hn.2 (maskCode_canonical _ hn.2)]
  rfl

end Machine

/-- Settles O43: each direction answers the shift by it on the latitude axis. -/
theorem moveLatResult : Obligations.MoveLatResult := by
  intro n i e s p rest hi hp hn
  obtain ⟨d, rfl, rfl⟩ := Machine.exists_direction_of_mem (ax := .lat) hi
  exact ⟨_, Machine.exec_moveRow .lat d hp hn, shiftedIndices_shiftCode _ _ 0 hn.2⟩

/-- Settles O44: each direction answers the shift by it on the longitude axis. -/
theorem moveLonResult : Obligations.MoveLonResult := by
  intro n i e s p rest hi hp hn
  obtain ⟨d, rfl, rfl⟩ := Machine.exists_direction_of_mem (ax := .lon) hi
  exact ⟨_, Machine.exec_moveRow .lon d hp hn, shiftedIndices_shiftCode _ 0 _ hn.2⟩

/-- Settles O45: each of the nine codes is the shift of its place in the list. -/
theorem neighborsResult : Obligations.NeighborsResult := by
  intro n d s p rest hp hn
  refine ⟨_, Machine.exec_neighbors d hp hn, ?_⟩
  have hshift (i j : ℤ) := shiftedIndices_shiftCode (maskCode p.req.a[0] n.toNat) i j hn.2
  exact ⟨hshift 1 0, hshift 1 1, hshift 0 1, hshift (-1) 1, hshift (-1) 0, hshift (-1) (-1),
    hshift 0 (-1), hshift 1 (-1), shiftCode_zero (maskCode_canonical _ hn.2)⟩

/-! ### Neighbouring integers -/

/-- Codes without a common bit are added index by index (R70 (f)). -/
theorem il_add_il {x x' y y' : Index} (hx : x &&& x' = 0) (hy : y &&& y' = 0) :
    il x y + il x' y' = il (x + x') (y + y') := by
  have hcode : il x y &&& il x' y' = 0 := by rw [← il_and, hx, hy, il_zero]
  rw [BitVec.add_eq_or_of_and_eq_zero _ _ hcode, BitVec.add_eq_or_of_and_eq_zero _ _ hx,
    BitVec.add_eq_or_of_and_eq_zero _ _ hy, il_or]

/-- Adding 2 to a code adds 1 to an even second index: no carry crosses to the first (R98). -/
theorem il_add_two (x : Index) {y : Index} (hy : y.toNat % 2 = 0) :
    il x y + 2 = il x (y + 1) := by
  have htwo : (2 : Word) = il 0 1 := by decide +kernel
  rw [htwo, il_add_il (x' := 0) BitVec.and_zero ((and_one_eq_zero_iff y).2 hy),
    BitVec.ofNat_eq_ofNat, BitVec.add_zero]

/-- The lowest bit of a code is that of its first index, and the bits above it interleave the second
index with the rest of the first (R63). -/
theorem il_toNat (x y : Index) : (il x y).toNat = 2 * (il y (x >>> 1)).toNat + x.toNat % 2 := by
  have hlow := il_toNat_mod_four x y
  have hrest : il x y >>> 1 = il y (x >>> 1) := by
    refine word_ext (fun i _ => ?_) (fun i _ => ?_)
    · rw [BitVec.getLsbD_ushiftRight, add_comm, getLsbD_il_odd, getLsbD_il_even]
    · have hnext : 1 + (2 * i + 1) = 2 * (1 + i) := by omega
      rw [BitVec.getLsbD_ushiftRight, hnext, getLsbD_il_even, getLsbD_il_odd,
        BitVec.getLsbD_ushiftRight]
  rw [← hrest, BitVec.toNat_ushiftRight, Nat.shiftRight_eq_div_pow]
  omega

/-- If adding 1 to a code changes its first index alone, nothing was carried into the second, so the
first index was even (R98). -/
theorem even_of_il_add_one {x x' y : Index} (h : il x y + 1 = il x' y) : x.toNat % 2 = 0 := by
  have hcode := il_toNat_mod_four x y
  have hnext := il_toNat_mod_four x' y
  rw [← h, BitVec.toNat_add, show (1 : Word).toNat = 1 from rfl] at hnext
  omega

/-- If adding 2 to a code changes its second index alone, nothing was carried into the first, so the
second index was even (R98). -/
theorem even_of_il_add_two {x y y' : Index} (h : il x y + 2 = il x y') : y.toNat % 2 = 0 := by
  have hcode := il_toNat_mod_four y (x >>> 1)
  have hnext := il_toNat_mod_four y' (x >>> 1)
  have hsum := il_toNat x y'
  rw [← h, BitVec.toNat_add, show (2 : Word).toNat = 2 from rfl, il_toNat x y] at hsum
  omega

/-- An even index of the grid is not the last, so a move up by one adds 1 (R92). -/
theorem moveIndex_plus_of_even {p : Index} {n : Nat} (hn : 1 ≤ n) (hn' : n ≤ 32)
    (hp : p.toNat < 2 ^ n) (heven : p.toNat % 2 = 0) : moveIndex p .plus n = p + 1 := by
  have hpow : 2 ^ n ≤ 2 ^ 32 := Nat.pow_le_pow_right (by decide) hn'
  have hdvd : 2 ∣ 2 ^ n := dvd_pow_self 2 (by omega)
  have hnext : p.toNat + 1 < 2 ^ n := by omega
  rw [← BitVec.toNat_inj, moveIndex_plus_toNat hn' hnext, BitVec.toNat_add,
    show (1 : Index).toNat = 1 from rfl, Nat.mod_eq_of_lt (hnext.trans_le hpow)]

/-- The northern neighbour is the next integer exactly when nothing is carried into the longitude index
(R98). -/
theorem north_eq_add_one_iff {c : Word} {n : Nat} (hn : 1 ≤ n) (hn' : n ≤ 32) (hc : canonical c n) :
    move c .lat .plus n = c + 1 ↔ (dl c).1.toNat % 2 = 0 := by
  refine ⟨fun h => ?_, fun h => ?_⟩
  · refine even_of_il_add_one (x' := moveIndex (dl c).1 .plus n) (y := (dl c).2) ?_
    rw [il_dl]
    exact h.symm
  · calc move c .lat .plus n = il ((dl c).1 + 1) (dl c).2 := by
          rw [move_lat, moveIndex_plus_of_even hn hn' (canonical_iff_dl_lt.1 hc).1 h]
      _ = il (dl c).1 (dl c).2 + 1 := (il_add_one _ h).symm
      _ = c + 1 := by rw [il_dl]

/-- The eastern neighbour is two further exactly when nothing is carried into the latitude index
(R98). -/
theorem east_eq_add_two_iff {c : Word} {n : Nat} (hn : 1 ≤ n) (hn' : n ≤ 32) (hc : canonical c n) :
    move c .lon .plus n = c + 2 ↔ (dl c).2.toNat % 2 = 0 := by
  refine ⟨fun h => ?_, fun h => ?_⟩
  · refine even_of_il_add_two (x := (dl c).1) (y' := moveIndex (dl c).2 .plus n) ?_
    rw [il_dl]
    exact h.symm
  · calc move c .lon .plus n = il (dl c).1 ((dl c).2 + 1) := by
          rw [move_lon, moveIndex_plus_of_even hn hn' (canonical_iff_dl_lt.1 hc).2 h]
      _ = il (dl c).1 (dl c).2 + 2 := (il_add_two _ h).symm
      _ = c + 2 := by rw [il_dl]

/-- A move north leaves the longitude index, so the step east from there adds 2 when that is even
(R98). -/
theorem northEast_eq_add_two {c : Word} {n : Nat} (hn : 1 ≤ n) (hn' : n ≤ 32) (hc : canonical c n)
    (h : (dl c).2.toNat % 2 = 0) :
    move (move c .lat .plus n) .lon .plus n = move c .lat .plus n + 2 := by
  rw [east_eq_add_two_iff hn hn' (move_canonical hn' hc .lat .plus)]
  rwa [move_lat, dl_il]

/-- Settles O51: the lowest two bits of a code are those of its indices, and the step north-east is a
step east after a step north. -/
theorem numericalAdjacencyOfNeighbors : Obligations.NumericalAdjacencyOfNeighbors := by
  intro c n hn hn' hc
  have hnorth := north_eq_add_one_iff hn hn' hc
  have heast := east_eq_add_two_iff hn hn' hc
  have hfour : c.toNat % 4 = 0 ↔ (dl c).1.toNat % 2 = 0 ∧ (dl c).2.toNat % 2 = 0 := by
    have hlow := il_toNat_mod_four (dl c).1 (dl c).2
    rw [il_dl] at hlow
    omega
  refine ⟨hnorth, heast, ?_⟩
  rw [hfour, ← hnorth, ← heast]
  refine ⟨fun ⟨hone, htwo, _⟩ => ⟨hone, htwo⟩, fun ⟨hone, htwo⟩ => ⟨hone, htwo, ?_⟩⟩
  rw [northEast_eq_add_two hn hn' hc (heast.1 htwo), hone, add_assoc]
  rfl

/-! ### The mask datapath -/

/-- A code from the index of an axis and the other axis's index. -/
def axisIl : Axis → Index → Index → Word
  | .lat, x, y => il x y
  | .lon, x, y => il y x

/-- The mask of the indices of the grid. -/
def indexMask (n : Nat) : Index := BitVec.ofNat 32 (2 ^ n - 1)

/-- The bits of the mask of the indices. -/
theorem getLsbD_indexMask (n i : Nat) :
    (indexMask n).getLsbD i = (decide (i < 32) && decide (i < n)) := by
  rw [indexMask, BitVec.getLsbD_ofNat, Nat.testBit_two_pow_sub_one]

/-- Masking an index is its remainder modulo `2^step` (R96). -/
theorem and_indexMask_toNat (x : Index) {n : Nat} (hn : n ≤ 32) :
    (x &&& indexMask n).toNat = x.toNat % 2 ^ n := by
  have hpow : 2 ^ n ≤ 2 ^ 32 := Nat.pow_le_pow_right (by decide) hn
  have hpos : 0 < 2 ^ n := by positivity
  rw [indexMask, BitVec.toNat_and, BitVec.toNat_ofNat, Nat.mod_eq_of_lt (by omega),
    Nat.and_two_pow_sub_one_eq_mod]

/-- The mask leaves an index of the grid as it is. -/
theorem and_indexMask_of_lt {x : Index} {n : Nat} (hn : n ≤ 32) (hx : x.toNat < 2 ^ n) :
    x &&& indexMask n = x := by
  rw [← BitVec.toNat_inj, and_indexMask_toNat x hn, Nat.mod_eq_of_lt hx]

/-- A shift is the masked sum: what wraps at 32 bits is a multiple of `2^step` (R92, R96). -/
theorem shiftIndex_eq_and_indexMask (x : Index) (k : ℤ) {n : Nat} (hn : n ≤ 32) :
    shiftIndex x k n = (x + BitVec.ofInt 32 k) &&& indexMask n := by
  have hsum : x + BitVec.ofInt 32 k = BitVec.ofInt 32 ((x.toNat : ℤ) + k) := by
    rw [BitVec.ofInt_add, BitVec.ofInt_natCast, BitVec.ofNat_toNat, BitVec.setWidth_eq]
  have hdvd : ((2 ^ n : ℕ) : ℤ) ∣ (2 ^ 32 : ℕ) := by exact_mod_cast pow_dvd_pow 2 hn
  rw [← BitVec.toNat_inj, ← Nat.cast_inj (R := ℤ), shiftIndex_toNat x k hn,
    and_indexMask_toNat _ hn, hsum, BitVec.toNat_ofInt, Int.natCast_mod,
    Int.toNat_of_nonneg (Int.emod_nonneg _ (by decide)), Int.emod_emod_of_dvd _ hdvd]

/-- A single bit of the first index, as a number (R63). -/
theorem il_ofNat_two_pow (k : Nat) :
    il (BitVec.ofNat 32 (2 ^ k)) 0 = BitVec.ofNat 64 (2 ^ (2 * k)) := by
  refine word_ext (fun i hi => ?_) (fun i hi => ?_)
  · have hlt : 2 * i < 64 := by omega
    rw [getLsbD_il_even, BitVec.getLsbD_ofNat, BitVec.getLsbD_ofNat, Nat.testBit_two_pow,
      Nat.testBit_two_pow]
    simp [hi, hlt]
  · have hne : 2 * k ≠ 2 * i + 1 := by omega
    rw [getLsbD_il_odd, BitVec.getLsbD_ofNat, Nat.testBit_two_pow]
    simp [hne]

/-- The latitude mask is the mask of the first index (R15). -/
theorem latMask_eq_il_indexMask (n : Nat) : latMask n = il (indexMask n) 0 := by
  induction n with
  | zero => exact il_zero.symm
  | succ n ih =>
    have hpos : 0 < 2 ^ n := by positivity
    have hpow : 2 ^ (n + 1) - 1 = (2 ^ n - 1) + 2 ^ n := by rw [pow_succ]; omega
    have hindex : indexMask (n + 1) = indexMask n + BitVec.ofNat 32 (2 ^ n) := by
      rw [indexMask, hpow, BitVec.ofNat_add, indexMask]
    have hdisjoint : indexMask n &&& BitVec.ofNat 32 (2 ^ n) = 0 := by
      refine BitVec.eq_of_getLsbD_eq fun i hi => ?_
      rw [BitVec.getLsbD_and, getLsbD_indexMask, BitVec.getLsbD_ofNat, Nat.testBit_two_pow]
      by_cases hin : n = i
      · simp [hin]
      · simp [hin]
    calc latMask (n + 1) = latMask n + BitVec.ofNat 64 (2 ^ (2 * n)) := BitVec.ofNat_add _ _
      _ = il (indexMask n) 0 + il (BitVec.ofNat 32 (2 ^ n)) 0 := by rw [ih, il_ofNat_two_pow]
      _ = il (indexMask (n + 1)) 0 := by
        rw [il_add_il hdisjoint BitVec.and_self, hindex]; rfl

/-- The longitude mask is the mask of the second index (R15). -/
theorem lonMask_eq_il_indexMask (n : Nat) : lonMask n = il 0 (indexMask n) := by
  rw [il_zero_left, ← latMask_eq_il_indexMask, lonMask, latMask, ← BitVec.toNat_inj]
  simp [BitVec.toNat_shiftLeft, Nat.shiftLeft_eq, mul_comm]

/-- The moved axis's mask (R96). -/
theorem ownMask_eq_axisIl (ax : Axis) (n : Nat) : ownMask ax n = axisIl ax (indexMask n) 0 := by
  cases ax with
  | lat => exact latMask_eq_il_indexMask n
  | lon => exact lonMask_eq_il_indexMask n

/-- The other axis's mask (R96). -/
theorem otherMask_eq_axisIl (ax : Axis) (n : Nat) : otherMask ax n = axisIl ax 0 (indexMask n) := by
  cases ax with
  | lat => exact lonMask_eq_il_indexMask n
  | lon => exact latMask_eq_il_indexMask n

/-- Interleaving nothing gives nothing, on either axis. -/
theorem axisIl_zero (ax : Axis) : axisIl ax 0 0 = 0 := by
  cases ax with
  | lat => exact il_zero
  | lon => exact il_zero

/-- Every code is one of an index of the moved axis and one of the other. -/
theorem exists_axisIl_eq (ax : Axis) (c : Word) : ∃ x y, axisIl ax x y = c := by
  cases ax with
  | lat => exact ⟨_, _, il_dl c⟩
  | lon => exact ⟨_, _, il_dl c⟩

/-- A code is canonical when both indices are of the grid, on either axis (R81). -/
theorem canonical_axisIl_iff (ax : Axis) (x y : Index) (n : Nat) :
    canonical (axisIl ax x y) n ↔ x.toNat < 2 ^ n ∧ y.toNat < 2 ^ n := by
  cases ax with
  | lat => exact canonical_il_iff x y n
  | lon => exact (canonical_il_iff y x n).trans and_comm

/-- A move moves the index of its axis (R87). -/
theorem move_axisIl (ax : Axis) (x y : Index) (d : Direction) (n : Nat) :
    move (axisIl ax x y) ax d n = axisIl ax (moveIndex x d n) y := by
  cases ax with
  | lat => rw [axisIl, axisIl, move_lat, dl_il]
  | lon => rw [axisIl, axisIl, move_lon, dl_il]

/-- Codes are conjoined index by index (R70 (b)). -/
theorem axisIl_and (ax : Axis) (x y x' y' : Index) :
    axisIl ax x y &&& axisIl ax x' y' = axisIl ax (x &&& x') (y &&& y') := by
  cases ax with
  | lat => exact (il_and x y x' y').symm
  | lon => exact (il_and y x y' x').symm

/-- Codes are disjoined index by index (R70 (b)). -/
theorem axisIl_or (ax : Axis) (x y x' y' : Index) :
    axisIl ax x y ||| axisIl ax x' y' = axisIl ax (x ||| x') (y ||| y') := by
  cases ax with
  | lat => exact (il_or x y x' y').symm
  | lon => exact (il_or y x y' x').symm

/-- Codes are complemented index by index. -/
theorem axisIl_not (ax : Axis) (x y : Index) : ~~~axisIl ax x y = axisIl ax (~~~x) (~~~y) := by
  have hnot (u v : Index) : ~~~il u v = il (~~~u) (~~~v) := by
    refine word_ext (fun i hi => ?_) (fun i hi => ?_)
    · rw [BitVec.getLsbD_not, getLsbD_il_even, getLsbD_il_even, BitVec.getLsbD_not]
      simp only [hi, show 2 * i < 64 by omega]
    · rw [BitVec.getLsbD_not, getLsbD_il_odd, getLsbD_il_odd, BitVec.getLsbD_not]
      simp only [hi, show 2 * i + 1 < 64 by omega]
  cases ax with
  | lat => exact hnot x y
  | lon => exact hnot y x

/-- Negation at an even position sees the bits of the first index, where the second has none below. -/
theorem getLsbD_neg_il_even {x y : Index} {i : Nat} (hi : i < 32)
    (hy : ∀ j < i, y.getLsbD j = false) : (-il x y).getLsbD (2 * i) = (-x).getLsbD i := by
  have hlower : (∃ j < 2 * i, (il x y).getLsbD j = true) ↔ ∃ j < i, x.getLsbD j = true := by
    constructor
    · rintro ⟨j, hj, hbit⟩
      obtain ⟨k, rfl | rfl⟩ := j.even_or_odd'
      · exact ⟨k, by omega, getLsbD_il_even x y k ▸ hbit⟩
      · rw [getLsbD_il_odd, hy k (by omega)] at hbit
        exact absurd hbit (by decide)
    · rintro ⟨j, hj, hbit⟩
      exact ⟨2 * j, by omega, (getLsbD_il_even x y j).trans hbit⟩
  rw [BitVec.getLsbD_neg, BitVec.getLsbD_neg, getLsbD_il_even]
  simp only [hlower, hi, show 2 * i < 64 by omega]

/-- Negation at an odd position sees the bits of the second index, where the first has none below. -/
theorem getLsbD_neg_il_odd {x y : Index} {i : Nat} (hi : i < 32)
    (hx : ∀ j ≤ i, x.getLsbD j = false) : (-il x y).getLsbD (2 * i + 1) = (-y).getLsbD i := by
  have hlower : (∃ j < 2 * i + 1, (il x y).getLsbD j = true) ↔ ∃ j < i, y.getLsbD j = true := by
    constructor
    · rintro ⟨j, hj, hbit⟩
      obtain ⟨k, rfl | rfl⟩ := j.even_or_odd'
      · rw [getLsbD_il_even, hx k (by omega)] at hbit
        exact absurd hbit (by decide)
      · exact ⟨k, by omega, getLsbD_il_odd x y k ▸ hbit⟩
    · rintro ⟨j, hj, hbit⟩
      exact ⟨2 * j + 1, by omega, (getLsbD_il_odd x y j).trans hbit⟩
  rw [BitVec.getLsbD_neg, BitVec.getLsbD_neg, getLsbD_il_odd]
  simp only [hlower, hi, show 2 * i + 1 < 64 by omega]

/-- The carry of a negation passes through the other axis's positions where they are empty below
`2 step`, so on the moved axis's active bits a code is negated as its index is (R96). -/
theorem neg_axisIl_and_ownMask (ax : Axis) (x : Index) {y : Index} {n : Nat}
    (hy : y &&& indexMask n = 0) :
    -axisIl ax x y &&& axisIl ax (indexMask n) 0 = axisIl ax (-x &&& indexMask n) 0 := by
  have hempty (i : Nat) (hi : i < n) : y.getLsbD i = false := by
    by_cases hi' : i < 32
    · have hbit : (y &&& indexMask n).getLsbD i = false := by
        rw [hy, BitVec.ofNat_eq_ofNat, BitVec.getLsbD_zero]
      rwa [BitVec.getLsbD_and, getLsbD_indexMask, decide_eq_true hi, decide_eq_true hi',
        Bool.and_self, Bool.and_true] at hbit
    · exact BitVec.getLsbD_of_ge y i (by omega)
  cases ax with
  | lat =>
    refine word_ext (fun i hi => ?_) (fun i _ => by simp [axisIl])
    rw [axisIl, axisIl, axisIl, BitVec.getLsbD_and, getLsbD_il_even, getLsbD_il_even,
      BitVec.getLsbD_and]
    by_cases hin : i < n
    · rw [getLsbD_neg_il_even hi fun j hj => hempty j (by omega)]
    · simp [getLsbD_indexMask, hin]
  | lon =>
    refine word_ext (fun i _ => by simp [axisIl]) (fun i hi => ?_)
    rw [axisIl, axisIl, axisIl, BitVec.getLsbD_and, getLsbD_il_odd, getLsbD_il_odd,
      BitVec.getLsbD_and]
    by_cases hin : i < n
    · rw [getLsbD_neg_il_odd hi fun j hj => hempty j (by omega)]
    · simp [getLsbD_indexMask, hin]

/-- The two axes' parts of a code make the code up (R96). -/
theorem axisIl_or_axisIl (ax : Axis) (x y : Index) :
    axisIl ax x 0 ||| axisIl ax 0 y = axisIl ax x y := by
  rw [axisIl_or, BitVec.ofNat_eq_ofNat, BitVec.or_zero, BitVec.zero_or]

/-- Nothing of the moved axis stands in the other's positions (R15). -/
theorem axisIl_and_otherMask (ax : Axis) (x : Index) (n : Nat) :
    axisIl ax x 0 &&& otherMask ax n = 0 := by
  rw [otherMask_eq_axisIl, axisIl_and, BitVec.ofNat_eq_ofNat, BitVec.and_zero, BitVec.zero_and]
  exact axisIl_zero ax

/-- Filling the other axis's positions below `2 step` lets a carry pass through them (R96). -/
theorem add_otherMask_add_one (ax : Axis) (x : Index) {n : Nat} (hn : n ≤ 32) :
    (axisIl ax x 0 + otherMask ax n + 1#64) &&& ownMask ax n =
      axisIl ax (moveIndex x .plus n) 0 := by
  have hfilled : axisIl ax x 0 + otherMask ax n = axisIl ax x (indexMask n) := by
    rw [BitVec.add_eq_or_of_and_eq_zero _ _ (axisIl_and_otherMask ax x n), otherMask_eq_axisIl,
      axisIl_or_axisIl]
  have hcarry {w : Nat} (v : BitVec w) : v + 1#w = -(~~~v) := by
    rw [BitVec.neg_eq_not_add, BitVec.not_not]
  rw [hfilled, hcarry, axisIl_not, ownMask_eq_axisIl, neg_axisIl_and_ownMask ax _ (by simp),
    ← hcarry, moveIndex_eq_shiftIndex, shiftIndex_eq_and_indexMask x _ hn]
  rfl

/-- Taking the filled positions away again with the 1 leaves them empty, and the borrow passes through
them (R96). -/
theorem or_otherMask_sub (ax : Axis) (x : Index) {n : Nat} (hn : n ≤ 32) :
    ((axisIl ax x 0 ||| otherMask ax n) - (otherMask ax n + 1#64)) &&& ownMask ax n =
      axisIl ax (moveIndex x .minus n) 0 := by
  have hborrow : (axisIl ax x 0 ||| otherMask ax n) - (otherMask ax n + 1#64) =
      ~~~(-axisIl ax x 0) := by
    rw [← BitVec.add_eq_or_of_and_eq_zero _ _ (axisIl_and_otherMask ax x n), BitVec.not_neg]
    ring
  have hmasked {w : Nat} (u m : BitVec w) : ~~~u &&& m = ~~~(u &&& m) &&& m := by
    ext i hi
    simp [Bool.and_or_distrib_right]
  rw [hborrow, hmasked, ownMask_eq_axisIl, neg_axisIl_and_ownMask ax x (by simp), axisIl_not,
    axisIl_and, ← hmasked, BitVec.not_neg, moveIndex_eq_shiftIndex,
    shiftIndex_eq_and_indexMask x _ hn, BitVec.sub_eq_add_neg, BitVec.ofNat_eq_ofNat, BitVec.and_zero]
  rfl

/-- Settles O47: on the moved axis the datapath adds or subtracts 1 and masks, and the other axis's bits
are put back. -/
theorem maskDatapathComputesTheMove : Obligations.MaskDatapathComputesTheMove := by
  intro c ax d n _ hn hc
  obtain ⟨x, y, rfl⟩ := exists_axisIl_eq ax c
  obtain ⟨hx, hy⟩ := (canonical_axisIl_iff ax x y n).1 hc
  have hown : axisIl ax x y &&& ownMask ax n = axisIl ax x 0 := by
    rw [ownMask_eq_axisIl, axisIl_and, and_indexMask_of_lt hn hx, BitVec.ofNat_eq_ofNat,
      BitVec.and_zero]
  have hother : axisIl ax x y &&& otherMask ax n = axisIl ax 0 y := by
    rw [otherMask_eq_axisIl, axisIl_and, and_indexMask_of_lt hn hy, BitVec.ofNat_eq_ofNat,
      BitVec.and_zero]
  rw [move_axisIl]
  cases d with
  | plus => simp only [moveMasked, hown, hother, add_otherMask_add_one ax x hn, axisIl_or_axisIl]
  | minus => simp only [moveMasked, hown, hother, or_otherMask_sub ax x hn, axisIl_or_axisIl]
  | stay =>
    simp only [moveMasked, hown, hother, axisIl_or_axisIl, moveIndex_eq_shiftIndex,
      Direction.toInt, shiftIndex_zero hx]

end Sys2Proof

/-! PROOFS. The statements about the range coalescer (spec/43_range_coalescer.md): the scan's intervals
have the properties of R104, which have one solution (R105), and what follows for their sizes (R106) and
for the block of nine (R108). -/

namespace Sys2Proof

/-! ### The four properties of R104 -/

/-- The values of a list of codes, order and repetition left out (R103). -/
def codeSet (codes : List Word) : Set Nat := {c | ∃ w ∈ codes, w.toNat = c}

/-- The intervals hold exactly the integers of `S`, each interval at least one, in ascending order and
with a gap before the next (R104). -/
structure Coalesced (is : List Interval) (S : Set Nat) : Prop where
  /-- No interval is empty. -/
  nonempty : ∀ iv ∈ is, iv.lo.toNat < iv.hi.toNat
  /-- Ascending, and apart: touching intervals would be one (R104 (d)). -/
  apart : is.Pairwise fun a b => a.hi.toNat < b.lo.toNat
  /-- The integers held are those of the set. -/
  covers : ∀ c, (∃ iv ∈ is, iv.holds c) ↔ c ∈ S

/-- A further code adds its value. -/
@[simp] theorem codeSet_cons (c : Word) (cs : List Word) :
    codeSet (c :: cs) = insert c.toNat (codeSet cs) := by
  ext x
  simp [codeSet, eq_comm]

/-- No code, no value. -/
@[simp] theorem codeSet_nil : codeSet [] = ∅ := by simp [codeSet]

/-- Lists with the same codes have the same values. -/
theorem codeSet_congr {l l' : List Word} (h : ∀ w, w ∈ l ↔ w ∈ l') : codeSet l = codeSet l' := by
  simp [codeSet, h]

/-- A code's value is below `2^64`. -/
theorem lt_of_mem_codeSet {codes : List Word} {c : Nat} (h : c ∈ codeSet codes) : c < 2 ^ 64 := by
  obtain ⟨w, -, rfl⟩ := h
  exact w.isLt

namespace Coalesced

/-- What an interval of the list holds is in the set. -/
theorem mem_of_holds {is : List Interval} {S : Set Nat} (h : Coalesced is S) {iv : Interval}
    (hiv : iv ∈ is) {c : Nat} (hc : iv.holds c) : c ∈ S :=
  (h.covers c).1 ⟨iv, hiv, hc⟩

/-- An interval alone. -/
theorem singleton {iv : Interval} (h : iv.lo.toNat < iv.hi.toNat) :
    Coalesced [iv] (Set.Ico iv.lo.toNat iv.hi.toNat) where
  nonempty := by simpa using h
  apart := List.pairwise_singleton _ _
  covers := by simp [Interval.holds]

/-- An interval before those of a set all of whose elements lie beyond its upper bound. -/
theorem cons {iv : Interval} {is : List Interval} {S : Set Nat} (hiv : iv.lo.toNat < iv.hi.toNat)
    (hgap : ∀ c ∈ S, iv.hi.toNat < c) (h : Coalesced is S) :
    Coalesced (iv :: is) (Set.Ico iv.lo.toNat iv.hi.toNat ∪ S) where
  nonempty := List.forall_mem_cons.2 ⟨hiv, h.nonempty⟩
  apart := List.pairwise_cons.2
    ⟨fun jv hjv => hgap _ (h.mem_of_holds hjv ⟨le_rfl, h.nonempty jv hjv⟩), h.apart⟩
  covers c := by
    rw [List.exists_mem_cons_iff, h.covers c]
    exact Iff.rfl

/-- A list that begins with `iv` holds `iv`'s integers, and the rest of the list those beyond `iv`. -/
theorem tail {iv : Interval} {is : List Interval} {S : Set Nat} (h : Coalesced (iv :: is) S) :
    Coalesced is (S ∩ Set.Ioi iv.hi.toNat) := by
  obtain ⟨-, hne⟩ := List.forall_mem_cons.1 h.nonempty
  obtain ⟨hgap, hap⟩ := List.pairwise_cons.1 h.apart
  refine ⟨hne, hap, fun c => ⟨?_, ?_⟩⟩
  · rintro ⟨jv, hjv, hc⟩
    exact ⟨h.mem_of_holds (List.mem_cons_of_mem _ hjv) hc, (hgap jv hjv).trans_le hc.1⟩
  · rintro ⟨hc, hbeyond⟩
    obtain ⟨jv, hjv, hjc⟩ := (h.covers c).2 hc
    rcases List.mem_cons.1 hjv with rfl | hjv
    · exact absurd hjc.2 (lt_asymm hbeyond)
    · exact ⟨jv, hjv, hjc⟩

/-- The first lower bound is the least element. -/
theorem isLeast_lo {iv : Interval} {is : List Interval} {S : Set Nat} (h : Coalesced (iv :: is) S) :
    IsLeast S iv.lo.toNat := by
  obtain ⟨hiv, -⟩ := List.forall_mem_cons.1 h.nonempty
  refine ⟨h.mem_of_holds List.mem_cons_self ⟨le_rfl, hiv⟩, fun c hc => ?_⟩
  obtain ⟨jv, hjv, hjc⟩ := (h.covers c).2 hc
  rcases List.mem_cons.1 hjv with rfl | hjv
  · exact hjc.1
  · have := (List.pairwise_cons.1 h.apart).1 jv hjv
    have := hjc.1
    omega

/-- The first upper bound is the least integer above the first lower bound that the set lacks: the gap
after the first interval makes it lack it (R104 (d)). -/
theorem isLeast_hi {iv : Interval} {is : List Interval} {S : Set Nat} (h : Coalesced (iv :: is) S) :
    IsLeast {c | iv.lo.toNat ≤ c ∧ c ∉ S} iv.hi.toNat := by
  obtain ⟨hiv, -⟩ := List.forall_mem_cons.1 h.nonempty
  refine ⟨⟨hiv.le, fun hmem => ?_⟩, fun c hc => ?_⟩
  · obtain ⟨jv, hjv, hjc⟩ := (h.covers _).2 hmem
    rcases List.mem_cons.1 hjv with rfl | hjv
    · exact lt_irrefl _ hjc.2
    · exact absurd hjc.1 (not_le.2 ((List.pairwise_cons.1 h.apart).1 jv hjv))
  · obtain ⟨hlo, hout⟩ := hc
    by_contra hlt
    exact hout (h.mem_of_holds List.mem_cons_self ⟨hlo, not_le.1 hlt⟩)

/-- R105: the properties of R104 have one solution.  Both bounds of the first interval are determined by
the set, and so is the set the rest holds. -/
theorem unique {is js : List Interval} {S : Set Nat} (hi : Coalesced is S) (hj : Coalesced js S) :
    is = js := by
  induction is generalizing js S with
  | nil =>
    cases js with
    | nil => rfl
    | cons jv js => simpa using (hi.covers _).2 hj.isLeast_lo.1
  | cons iv is ih =>
    cases js with
    | nil => simpa using (hj.covers _).2 hi.isLeast_lo.1
    | cons jv js =>
      have hlo : iv.lo.toNat = jv.lo.toNat := hi.isLeast_lo.unique hj.isLeast_lo
      have hhi : iv.hi.toNat = jv.hi.toNat := hi.isLeast_hi.unique (hlo ▸ hj.isLeast_hi)
      have hhead : iv = jv := by
        cases iv
        cases jv
        exact congrArg₂ _ (BitVec.eq_of_toNat_eq hlo) (BitVec.eq_of_toNat_eq hhi)
      rw [hhead, ih hi.tail (hhi ▸ hj.tail)]

end Coalesced

/-! ### The scan -/

/-- The interval a code opens is not empty (R100). -/
theorem lt_onePast (c : Word) : c.toNat < (onePast c).toNat := by
  rw [onePast_toNat]
  exact Nat.lt_succ_self _

/-- `onePast` keeps the order, since it never wraps (R100). -/
theorem onePast_toNat_le {c w : Word} (h : c ≤ w) : (onePast c).toNat ≤ (onePast w).toNat := by
  rw [onePast_toNat, onePast_toNat]
  exact Nat.succ_le_succ h

/-- The interval a code opens holds that code and no other integer (R102). -/
theorem Ico_onePast_union (c : Word) (cs : List Word) :
    Set.Ico c.toNat (onePast c).toNat ∪ codeSet cs = codeSet (c :: cs) := by
  rw [onePast_toNat, ← Set.insert_Ico_right_eq_Ico_add_one le_rfl, Set.Ico_self, Set.insert_union,
    Set.empty_union, codeSet_cons]

/-- The scan of ascending codes, none below the last one absorbed, adds them to the open interval
(R102). -/
theorem scanCodes_coalesced {lo : Word} {hi : Hi} {l : List Word} (hlt : lo.toNat < hi.toNat)
    (hsorted : l.Pairwise (· ≤ ·)) (hle : ∀ w ∈ l, hi.toNat ≤ (onePast w).toNat) :
    Coalesced (scanCodes lo hi l) (Set.Ico lo.toNat hi.toNat ∪ codeSet l) := by
  induction l generalizing lo hi with
  | nil =>
    rw [codeSet_nil, Set.union_empty]
    exact .singleton hlt
  | cons c cs ih =>
    obtain ⟨hc, hcs⟩ := List.forall_mem_cons.1 hle
    obtain ⟨hmin, hsorted⟩ := List.pairwise_cons.1 hsorted
    have hpast : ∀ w ∈ cs, (onePast c).toNat ≤ (onePast w).toNat :=
      fun w hw => onePast_toNat_le (hmin w hw)
    have hwide : (c.setWidth 65).toNat = c.toNat := BitVec.toNat_setWidth_of_le (by decide)
    rw [onePast_toNat] at hc
    unfold scanCodes
    split_ifs with hdup hext
    · have hin : c.toNat ∈ Set.Ico lo.toNat hi.toNat := by
        rw [← hdup, onePast_toNat] at hlt ⊢
        exact ⟨Nat.le_of_lt_succ hlt, Nat.lt_succ_self _⟩
      rw [codeSet_cons, Set.union_insert, Set.insert_eq_of_mem (.inl hin)]
      exact ih hlt hsorted hcs
    · have hadd : hi + 1#65 = onePast c := by rw [← hext, onePast]
      have hval : hi.toNat = c.toNat := by rw [← hext, hwide]
      rw [hadd, codeSet_cons, Set.union_insert, ← Set.insert_union, hval,
        Set.insert_Ico_right_eq_Ico_add_one (hlt.trans_eq hval).le, ← onePast_toNat]
      exact ih ((hlt.trans_eq hval).trans (lt_onePast c)) hsorted hpast
    · have hbeyond : hi.toNat < c.toNat := by
        have hne : hi.toNat ≠ c.toNat + 1 := fun h =>
          hdup (BitVec.eq_of_toNat_eq (by rw [onePast_toNat, h]))
        have hne' : hi.toNat ≠ c.toNat := fun h =>
          hext (BitVec.eq_of_toNat_eq (by rw [hwide, h]))
        omega
      have hrest := ih (lt_onePast c) hsorted hpast
      rw [Ico_onePast_union] at hrest
      refine hrest.cons hlt ?_
      rintro _ ⟨w, hw, rfl⟩
      rcases List.mem_cons.1 hw with rfl | hw
      · exact hbeyond
      · exact hbeyond.trans_le (hmin w hw)

/-- R104: the intervals of a list of codes have its properties.  The scan goes over the sorted codes,
which are the same codes. -/
theorem coalesceCodes_coalesced (codes : List Word) :
    Coalesced (coalesceCodes codes) (codeSet codes) := by
  have hsorted := sortCodes_sorted codes
  rw [← codeSet_congr fun w => (sortCodes_perm codes).mem_iff (a := w)]
  unfold coalesceCodes
  cases hs : sortCodes codes with
  | nil => exact ⟨by simp, .nil, by simp⟩
  | cons c cs =>
    rw [hs] at hsorted
    obtain ⟨hmin, hsorted⟩ := List.pairwise_cons.1 hsorted
    rw [← Ico_onePast_union]
    exact scanCodes_coalesced (lt_onePast c) hsorted fun w hw => onePast_toNat_le (hmin w hw)

/-- R105: the intervals of a list of codes are the only ones with the properties of R104. -/
theorem coalesceCodes_eq_iff {codes : List Word} {is : List Interval} :
    coalesceCodes codes = is ↔ Coalesced is (codeSet codes) :=
  ⟨fun h => h ▸ coalesceCodes_coalesced codes, (coalesceCodes_coalesced codes).unique⟩

/-- Settles O53: equal sets of codes have the same solution of R104's properties. -/
theorem coalesceDependsOnTheSetOfCodes : Obligations.CoalesceDependsOnTheSetOfCodes := by
  intro q q' h
  have hsame : coalesceCodes q.a.toList = coalesceCodes q'.a.toList := by
    rw [coalesceCodes_eq_iff, codeSet_congr h]
    exact coalesceCodes_coalesced _
  exact congrArg Response.ofIntervals hsame

/-- Settles O54: the three hypotheses are the properties of R104. -/
theorem coalescedIntervalsAreUnique : Obligations.CoalescedIntervalsAreUnique :=
  fun _ _ hnonempty hapart hcovers => coalesceCodes_eq_iff.2 ⟨hnonempty, hapart, hcovers⟩

/-! ### How many integers the intervals hold -/

/-- The number of integers an interval holds (R106). -/
def Interval.size (iv : Interval) : Nat := iv.hi.toNat - iv.lo.toNat

/-- The integers an interval holds. -/
def Interval.members (iv : Interval) : List Nat := List.range' iv.lo.toNat iv.size

/-- They are as many as its size. -/
@[simp] theorem Interval.length_members (iv : Interval) : iv.members.length = iv.size :=
  List.length_range'

/-- They are the integers from `lo` up to but not including `hi` (R45, R100). -/
theorem Interval.mem_members {iv : Interval} {c : Nat} : c ∈ iv.members ↔ iv.holds c := by
  rw [Interval.members, Interval.size, List.mem_range'_1, Interval.holds]
  omega

namespace Coalesced

/-- No integer is held twice. -/
theorem nodup_members {is : List Interval} {S : Set Nat} (h : Coalesced is S) :
    (is.flatMap Interval.members).Nodup := by
  refine List.nodup_flatMap.2 ⟨fun iv _ => List.nodup_range', h.apart.imp ?_⟩
  intro iv jv hgap c hi hj
  have hbelow := (Interval.mem_members.1 hi).2
  have habove := (Interval.mem_members.1 hj).1
  omega

/-- R104 (e): the intervals of a set of codes hold as many integers as there are distinct codes. -/
theorem sum_size {is : List Interval} {codes : List Word} (h : Coalesced is (codeSet codes)) :
    (is.map Interval.size).sum = codes.dedup.length := by
  have hsame : (is.flatMap Interval.members).Perm (codes.dedup.map BitVec.toNat) := by
    refine (List.perm_ext_iff_of_nodup h.nodup_members
      (codes.nodup_dedup.map fun _ _ => BitVec.eq_of_toNat_eq)).2 fun c => ?_
    simp only [List.mem_flatMap, Interval.mem_members, List.mem_map, List.mem_dedup]
    exact h.covers c
  simpa [List.length_flatMap] using hsame.length_eq

/-- An interval holds at most as many integers as there are codes (R106). -/
theorem size_le {is : List Interval} {codes : List Word} (h : Coalesced is (codeSet codes))
    {iv : Interval} (hiv : iv ∈ is) : iv.size ≤ codes.length :=
  calc iv.size ≤ (is.map Interval.size).sum := List.le_sum_of_mem (List.mem_map_of_mem hiv)
    _ = codes.dedup.length := h.sum_size
    _ ≤ codes.length := codes.dedup_sublist.length_le

/-- The last integer an interval of codes holds is a code, so its upper bound is at most `2^64`
(R106). -/
theorem hi_le {is : List Interval} {codes : List Word} (h : Coalesced is (codeSet codes))
    {iv : Interval} (hiv : iv ∈ is) : iv.hi.toNat ≤ 2 ^ 64 := by
  have hlt := h.nonempty iv hiv
  have hlast : iv.holds (iv.hi.toNat - 1) := ⟨by omega, by omega⟩
  have := lt_of_mem_codeSet (h.mem_of_holds hiv hlast)
  omega

/-- An interval that ends at `2^64` is the last: the next one would begin beyond it (R106). -/
theorem last_of_hi_eq {is : List Interval} {S : Set Nat} (h : Coalesced is S) {k : Nat}
    (hk : k < is.length) (hend : is[k].hi.toNat = 2 ^ 64) : k + 1 = is.length := by
  by_contra hne
  have hgap := List.pairwise_iff_getElem.1 h.apart k (k + 1) hk (by omega) (by omega)
  have := is[k + 1].lo.isLt
  omega

end Coalesced

/-! ### What COALESCE answers -/

/-- The intervals of a request are at most nine (R102). -/
theorem coalesceCodes_operands_length_le (a : Vector Word 9) :
    (coalesceCodes a.toList).length ≤ 9 :=
  (coalesceCodes_length_le _).trans (by simp)

/-- Result `k` of a response of intervals is the lower bound of interval `k` (R52). -/
theorem Response.ofIntervals_r {is : List Interval} {k : Nat} (hk : k < 9) (hlen : k < is.length) :
    (Response.ofIntervals is).r[k] = is[k].lo := by
  simp [Response.ofIntervals, getElem_vec9, hlen]

/-- Upper bound `k` of a response of intervals is that of interval `k` (R52). -/
theorem Response.ofIntervals_h {is : List Interval} {k : Nat} (hk : k < 9) (hlen : k < is.length) :
    (Response.ofIntervals is).h[k] = is[k].hi := by
  simp [Response.ofIntervals, getElem_vec9, hlen]

/-- Settles O52: the answer's intervals are those of the operand words, which solve R104. -/
theorem coalesceResult : Obligations.CoalesceResult := by
  intro n d s p rest hp
  have h := coalesceCodes_coalesced p.req.a.toList
  refine ⟨coalesceCodes p.req.a.toList, coalesceCodes_length_pos (by simp),
    coalesceCodes_operands_length_le _, ?_, h.nonempty, h.apart, h.covers, h.sum_size⟩
  rw [Machine.exec_eq_answer, Machine.State.answer_cons _ hp]
  rfl

/-- Settles O55: the interval at `k` is one of those of the operand words. -/
theorem coalescedIntervalSizes : Obligations.CoalescedIntervalSizes := by
  intro q k hk hcount x
  have h := coalesceCodes_coalesced q.a.toList
  have hx : x.count.toNat = (coalesceCodes q.a.toList).length :=
    ofNat_count_toNat (coalesceCodes_operands_length_le q.a)
  have hlen : k < (coalesceCodes q.a.toList).length := hx ▸ hcount
  have hmem := List.getElem_mem hlen
  rw [show x.r[k] = _ from Response.ofIntervals_r hk hlen,
    show x.h[k] = _ from Response.ofIntervals_h hk hlen, hx]
  exact ⟨Nat.sub_pos_of_lt (h.nonempty _ hmem), (h.size_le hmem).trans (by simp), h.hi_le hmem,
    h.last_of_hi_eq hlen⟩

/-! ### The pseudo-operation NRANGES -/

/-- Nine words fill the nine ports (R20). -/
theorem toList_vec9 {α : Type} (z : α) {l : List α} (hl : l.length = 9) : (vec9 z l).toList = l := by
  refine List.ext_getElem (by simp [hl]) fun k hk hk' => ?_
  rw [Vector.getElem_toList, getElem_vec9, List.getD_eq_getElem l z hk']

/-- At a legal precision NEIGHBORS answers the nine codes around the masked operand alone (R93). -/
theorem Machine.respond_neighbors_of_legal {step : StepField} (hstep : legalStep step) (d : DirField)
    (code : Word) : respond (requestOf (.neighbors step d) [code]) =
      .ofWords (neighborCodes (maskCode code step.toNat) step.toNat) := by
  rw [respond_requestOf, responseOf, neighborsResponse, precisionFlag_of_legal hstep,
    Response.orRaise_zero]
  rfl

/-- COALESCE of nine words answers their intervals (R102). -/
theorem Machine.respond_coalesce (step : StepField) (d : DirField) {ws : List Word}
    (hws : ws.length = 9) :
    respond (requestOf (.coalesce step d) ws) = .ofIntervals (coalesceCodes ws) := by
  rw [respond_requestOf, responseOf, coalesceResponse, requestOf, toList_vec9 _ hws]

/-- At precision 1 the block is the whole grid, one interval (R95, R108). -/
theorem coalesceCodes_neighborCodes_one {c : Word} (hc : canonical c 1) :
    coalesceCodes (neighborCodes c 1) = [⟨0, 4⟩] := by
  obtain ⟨-, hgrid⟩ := neighborsAreDistinctFromStepTwo c 1 le_rfl (by decide) hc
  have hset : codeSet (neighborCodes c 1) = Set.Ico 0 4 := by
    ext x
    constructor
    · rintro ⟨w, hw, rfl⟩
      exact ⟨Nat.zero_le _, (hgrid rfl w).1 hw⟩
    · rintro ⟨-, hx⟩
      have hval : (BitVec.ofNat 64 x).toNat = x := by rw [BitVec.toNat_ofNat]; omega
      exact ⟨_, (hgrid rfl _).2 (hval.trans_lt hx), hval⟩
  rw [coalesceCodes_eq_iff, hset]
  exact .singleton (iv := ⟨0, 4⟩) (by decide)

/-- Settles O56: the second transaction coalesces the nine words of the first. -/
theorem neighborRangesCoverTheBlock : Obligations.NeighborRangesCoverTheBlock := by
  intro code n hn
  have hneighbors := Machine.respond_neighbors_of_legal hn 0#2 code
  have hwords : (Machine.respond (Machine.requestOf (.neighbors n 0#2) [code])).r.toList =
      neighborCodes (maskCode code n.toNat) n.toNat := by
    rw [hneighbors, Response.ofWords_r, toList_vec9 _ rfl]
  refine ⟨Machine.respond (Machine.requestOf (.neighbors n 0#2) [code]), _, ?_,
    coalesceCodes_operands_length_le _, hwords, (coalesceCodes_coalesced _).covers, ?_⟩
  · rw [Machine.pseudoNRanges_of_legal code hn, ← Machine.respond_coalesce 0#8 0#2 (by simp)]
    rfl
  · rintro rfl
    rw [hwords]
    exact coalesceCodes_neighborCodes_one (maskCode_canonical code (by decide))

end Sys2Proof

/-! PROOFS. The statements about errors (spec/60_exceptions.md): which status bits an operation raises
(R110, R112), `IllegalOp` as the decoder's rejection (R113), and ENCODE's two checks together
(R114). -/

namespace Sys2Proof

/-! ### The bits the two checks raise -/

/-- The domain check raises `OutOfRange` on a pair that is not two legal coordinates (R112). -/
theorem domainFlag_of_illegal {lat lon : Word}
    (h : ¬ (legalCoordinate .lat lat ∧ legalCoordinate .lon lon)) :
    domainFlag lat lon = outOfRange := by
  rw [← inDomain_iff, ← inDomain_iff, ← Bool.and_eq_true] at h
  rw [domainFlag, if_neg h]

/-- The domain check raises bit 0 only, and exactly where a coordinate is bad (R111, R112). -/
theorem getLsbD_domainFlag {lat lon : Word} {k : Nat} :
    (domainFlag lat lon).getLsbD k = true ↔
      k = 0 ∧ ¬ (legalCoordinate .lat lat ∧ legalCoordinate .lon lon) := by
  by_cases h : legalCoordinate .lat lat ∧ legalCoordinate .lon lon
  · simp [domainFlag_eq_zero_iff.2 h, h]
  · have hbit : outOfRange.getLsbD k = true ↔ k = 0 := by
      rw [outOfRange, BitVec.getLsbD_one]
      simp
    rw [domainFlag_of_illegal h, hbit, and_iff_left h]

/-- The precision check raises bit 1 only, and exactly where the precision is bad (R110, R111). -/
theorem getLsbD_precisionFlag {step : StepField} {k : Nat} :
    (precisionFlag step).getLsbD k = true ↔ k = 1 ∧ ¬ legalStep step := by
  by_cases h : legalStep step
  · simp [precisionFlag_of_legal h, h]
  · have hbit : unsupportedPrecision.getLsbD k = true ↔ k = 1 := by
      change (BitVec.twoPow 3 1).getLsbD k = true ↔ k = 1
      rw [BitVec.getLsbD_twoPow]
      simp [eq_comm]
    rw [precisionFlag_of_illegal h, hbit, and_iff_left h]

/-! ### The bits an operation raises -/

/-- The bits an operation's checks raise on a request: the domain check where it reads coordinates,
the precision check where it takes a precision (R110, R112). -/
def Instr.raisedFlags (i : Instr) (q : Request) : BitVec 3 :=
  (if i.readsCoordinates then domainFlag q.a[0] q.a[1] else 0#3) |||
    i.precision.elim 0#3 precisionFlag

/-- Each bit an operation raises comes from the check it belongs to (R110, R112). -/
theorem Instr.getLsbD_raisedFlags {i : Instr} {q : Request} {k : Nat} :
    (i.raisedFlags q).getLsbD k = true ↔
      (k = 0 ∧ i.readsCoordinates = true ∧
        ¬ (legalCoordinate .lat q.a[0] ∧ legalCoordinate .lon q.a[1])) ∨
      (k = 1 ∧ ∃ n, i.precision = some n ∧ ¬ legalStep n) := by
  have hdomain : (if i.readsCoordinates then domainFlag q.a[0] q.a[1] else 0#3).getLsbD k = true ↔
      k = 0 ∧ i.readsCoordinates = true ∧
        ¬ (legalCoordinate .lat q.a[0] ∧ legalCoordinate .lon q.a[1]) := by
    split
    · next hreads => rw [getLsbD_domainFlag, hreads, eq_self_iff_true, true_and]
    · next hreads => simp [hreads]
  have hprecision : (i.precision.elim 0#3 precisionFlag).getLsbD k = true ↔
      k = 1 ∧ ∃ n, i.precision = some n ∧ ¬ legalStep n := by
    cases i.precision with
    | none => simp
    | some n => simp [getLsbD_precisionFlag]
  rw [raisedFlags, BitVec.getLsbD_or, Bool.or_eq_true, hdomain, hprecision]

namespace Machine

/-- The status of an operation's response is the bits its checks raise (R14, R111). -/
theorem responseOf_status (i : Instr) (q : Request) :
    (responseOf i q).status = i.raisedFlags q := by
  have hprecision (step : StepField) (ws : List Word) :
      (Response.orRaise (precisionFlag step) (.ofWords ws)).status = 0#3 ||| precisionFlag step := by
    rw [Response.orRaise_ofWords_status, BitVec.zero_or]
  cases i with
  | interleave | deinterleave | coalesce => exact BitVec.or_self.symm
  | encode => exact Response.orRaise_ofWords_status _ _
  | decode | moveLatStay | moveLatNorth | moveLatSouth | moveLonStay | moveLonEast | moveLonWest
  | neighbors => exact hprecision _ _

/-- No operation raises `IllegalOp` (R54, R113). -/
theorem responseOf_not_illegalOp (i : Instr) (q : Request) :
    (responseOf i q).status.getLsbD 2 = false := by
  rw [← Bool.not_eq_true, responseOf_status, Instr.getLsbD_raisedFlags]
  simp

end Machine

/-- Settles O24: bit by bit, the status is what the operation's checks raise. -/
theorem errorBitsRaisedExactly : Obligations.ErrorBitsRaisedExactly := by
  intro i s p rest hp
  refine ⟨Machine.responseOf i p.req, ?_, ?_, ?_, Machine.responseOf_not_illegalOp i p.req⟩
  · rw [Machine.exec_eq_answer, Machine.State.answer_cons _ hp]
  · rw [Machine.responseOf_status, Instr.getLsbD_raisedFlags]
    simp
  · rw [Machine.responseOf_status, Instr.getLsbD_raisedFlags]
    simp

/-! ### Both errors of ENCODE -/

/-- An ENCODE whose checks raise bits answers them and no result (R114, R116). -/
theorem Machine.exec_encode_of_flags {n : StepField} {s : State} {p : Pending} {rest : List Pending}
    {flags : BitVec 3} (d : DirField) (hp : s.pending = p :: rest)
    (hflags : encodeFlags n p.req.a[0] p.req.a[1] = flags) (hne : flags ≠ 0#3) :
    exec (.encode n d) s = .next (s.afterAnswer rest
      ⟨flags, 0#4, #v[0, 0, 0, 0, 0, 0, 0, 0, 0], noBounds⟩) := by
  rw [exec_eq_answer, State.answer_cons _ hp, responseOf, encodeResponse, hflags,
    Response.orRaise_of_ne hne]
  rfl

/-- Settles O25: the two checks' bits are joined, whichever of them are raised. -/
theorem encodeReportsBothErrors : Obligations.EncodeReportsBothErrors := by
  intro n d s p rest hp badCoordinate failed
  have hfailed {flags : BitVec 3}
      (hflags : encodeFlags n p.req.a[0] p.req.a[1] = flags) (hne : flags ≠ 0#3) : failed flags :=
    Machine.exec_encode_of_flags d hp hflags hne
  refine ⟨fun hbad hn => hfailed ?_ (by decide), fun hbad hn => hfailed ?_ (by decide),
    fun hgood hn => hfailed ?_ (by decide)⟩
  · rw [encodeFlags, domainFlag_of_illegal hbad, precisionFlag_of_illegal hn]
    rfl
  · rw [encodeFlags, domainFlag_of_illegal hbad, precisionFlag_of_legal hn]
    rfl
  · rw [encodeFlags, domainFlag_eq_zero_iff.2 (not_not.1 hgood), precisionFlag_of_illegal hn]
    rfl

/-! ### The decoder rejects for the causes of R54 only -/

/-- The one direction field without a direction is `10` (R50). -/
theorem eq_two_of_directionOf_eq_none {d : DirField} (h : directionOf d = none) : d = 0b10#2 := by
  revert d
  decide

/-- A MOVE_LAT is rejected for its direction only (R50, R54). -/
theorem eq_two_of_decodeMoveLat_error {step : StepField} {d : DirField} {e : IllegalCtl}
    (h : decodeMoveLat step d = .error e) : d = 0b10#2 := by
  unfold decodeMoveLat at h
  split at h <;> cases h
  next hd => exact eq_two_of_directionOf_eq_none hd

/-- A MOVE_LON is rejected for its direction only (R50, R54). -/
theorem eq_two_of_decodeMoveLon_error {step : StepField} {d : DirField} {e : IllegalCtl}
    (h : decodeMoveLon step d = .error e) : d = 0b10#2 := by
  unfold decodeMoveLon at h
  split at h <;> cases h
  next hd => exact eq_two_of_directionOf_eq_none hd

/-- With `rsv = 00` a word is rejected for a reserved code or the direction of a MOVE only (R54). -/
theorem causes_of_decodeOp_error {op : BitVec 4} {step : StepField} {d : DirField} {e : IllegalCtl}
    (h : decodeOp op step d = .error e) :
    8 ≤ op.toNat ∨ ((op = 4#4 ∨ op = 5#4) ∧ d = 0b10#2) := by
  unfold decodeOp at h
  split at h
  case h_5 => exact .inr ⟨.inl rfl, eq_two_of_decodeMoveLat_error h⟩
  case h_6 => exact .inr ⟨.inr rfl, eq_two_of_decodeMoveLon_error h⟩
  case h_9 =>
    left
    -- the last row of the match: `op` is none of the codes 0 to 7
    clear h
    revert op
    decide
  all_goals cases h

/-- The decoder rejects exactly the words that meet a cause of R54 (R113). -/
theorem exists_decodeCtl_error_iff {c : Ctl} : (∃ e, decodeCtl c = .error e) ↔ illegalCtl c := by
  refine ⟨fun ⟨e, h⟩ => ?_, decodeCtl_of_illegalCtl⟩
  unfold decodeCtl at h
  split at h
  case isTrue =>
    rcases causes_of_decodeOp_error h with hop | hmove
    · exact .inl hop
    · exact .inr (.inr hmove)
  case isFalse hrsv => exact .inr (.inl hrsv)

/-- Settles O5: an illegal word is answered with `IllegalOp` alone, and any other by an operation,
which never raises it. -/
theorem illegalOpRaisedExactly : Obligations.IllegalOpRaisedExactly := by
  intro s p rest hp
  refine ⟨Machine.responseTo p.req, Machine.runRequest_cons hp,
    ⟨fun hbit => ?_, fun hillegal => ?_⟩, Machine.responseTo_of_illegalCtl⟩
  · cases hdecode : decodeCtl p.req.ctl with
    | error e => exact exists_decodeCtl_error_iff.1 ⟨e, hdecode⟩
    | ok i =>
      rw [Machine.responseTo_of_decodeCtl hdecode, Machine.responseOf_not_illegalOp] at hbit
      cases hbit
  · rw [Machine.responseTo_of_illegalCtl hillegal]
    rfl

end Sys2Proof

/-! PROOFS. The statements about the clock edge and the handshake in time (spec rules R28, R125, R126,
R128, R130, R134): every edge has a next state, reset empties the queue, both channels hold what they
present, and responses and `req_ready` come in a finite number of cycles. -/

namespace Sys2Proof

/-! ### Every edge has a next state -/

namespace Machine

/-- A step at an edge with `rst = 1` (R125). -/
theorem step_of_rst {s : State} (hrst : s.pins.rst = true) : step s = .next s.resetEdge := by
  simp [step, hrst]

/-- A step at an edge without reset after whose events no request is due. -/
theorem step_of_not_due {s : State} (hrst : s.pins.rst = false) (hdue : s.portEvents.due = none) :
    step s = .next s.portEvents.endEdge := by
  simp [step, hrst, hdue]

/-- A step at an edge without reset after whose events a request is due (R134). -/
theorem step_of_due {s : State} {q : Request} (hrst : s.pins.rst = false)
    (hdue : s.portEvents.due = some q) :
    step s = mapNext State.endEdge (runRequest q s.portEvents) := by
  simp [step, hrst, hdue]

/-- Running a request that decodes to an operation is that operation's meaning (R134). -/
theorem runRequest_of_decodeCtl {q : Request} {i : Instr} (h : decodeCtl q.ctl = .ok i) (s : State) :
    runRequest q s = exec i s := by
  simp [runRequest, h]

/-- No step faults or is refused: the one fault of an answer is an empty queue, and a due request is
in the queue (R124, R130). -/
theorem exists_step (s : State) : ∃ t, step s = .next t := by
  cases hrst : s.pins.rst with
  | true => exact ⟨_, step_of_rst hrst⟩
  | false =>
    cases hdue : s.portEvents.due with
    | none => exact ⟨_, step_of_not_due hrst hdue⟩
    | some q =>
      obtain ⟨rest, hp⟩ := State.due_eq_some.1 hdue
      exact ⟨_, step_of_oldest_due hrst hp rfl⟩

/-- Every edge is one cycle and uses up one entry of what the host drives. -/
theorem cycle_and_host_of_step {s t : State} (h : step s = .next t) :
    t.cycle = s.cycle + 1 ∧ t.host = s.host.tail := by
  rcases step_cases h with ⟨-, rfl⟩ | ⟨-, -, rfl⟩ | ⟨q, rest, -, -, rfl⟩
  · exact ⟨rfl, rfl⟩
  · simp
  · simp

/-- What a step without reset can do: the ports' events alone, or these and one answer. -/
theorem step_cases_of_not_rst {s t : State} (hrst : s.pins.rst = false) (h : step s = .next t) :
    (s.portEvents.due = none ∧ t = s.portEvents.endEdge) ∨
    (∃ q rest, s.portEvents.pending = ⟨q, 0⟩ :: rest ∧
      t = (s.portEvents.afterAnswer rest (responseTo q)).endEdge) := by
  rcases step_cases h with ⟨hr, -⟩ | ⟨-, hdue, ht⟩ | ⟨q, rest, -, hp, ht⟩
  · exact absurd (hr.symm.trans hrst) Bool.noConfusion
  · exact .inl ⟨hdue, ht⟩
  · exact .inr ⟨q, rest, hp, ht⟩

end Machine

/-- Settles O9: the next state of `exists_step`. -/
theorem everyClockEdgeHasANextState : Obligations.EveryClockEdgeHasANextState := by
  intro s
  obtain ⟨t, hstep⟩ := Machine.exists_step s
  exact ⟨t, hstep, Machine.cycle_and_host_of_step hstep⟩

/-- Settles O7: a due request runs, and one that decodes runs as its operation. -/
theorem stepRunsTheDecodedRequest : Obligations.StepRunsTheDecodedRequest := by
  intro s q i hrst hdue hdecode
  rw [Machine.step_of_due hrst hdue, Machine.runRequest_of_decodeCtl hdecode]

/-- Settles O10: the fields of the state a reset edge leaves. -/
theorem resetEdgeEmptiesTheQueue : Obligations.ResetEdgeEmptiesTheQueue := by
  intro s hrst
  exact ⟨s.resetEdge, Machine.step_of_rst hrst, rfl, rfl, rfl, rfl, rfl⟩

/-! ### What a channel presents it holds -/

namespace Machine

/-- The pins of the next edge are the first entry of what the host drives. -/
theorem State.pins_of_host {s : State} {p : Pins} {rest : List Pins} (h : s.host = p :: rest) :
    s.pins = p := by
  simp [State.pins, h]

/-- The payload on the response wires while `rsp_valid` is 1 is the oldest response (R28). -/
theorem State.rspPayload_of_ready {s : State} {x : Response} {rest : List Response}
    (hv : s.rspValid = true) (hr : s.ready = x :: rest) : s.rspPayload = x := by
  simp [State.rspPayload, hv, hr]

/-- Where the host is not ready for a response the events of an edge leave those waiting. -/
theorem State.portEvents_ready_of_not_rspReady {s : State} (h : s.pins.rspReady = false) :
    s.portEvents.ready = s.ready := by
  have htaken : s.portEvents.taken = s.taken := by simp [s.portEvents_taken, h]
  have hboth := s.portEvents_taken_ready
  rw [htaken] at hboth
  exact List.append_cancel_left hboth

/-- An edge without reset only adds to the responses waiting after its ports' events, and last. -/
theorem portEvents_ready_prefix_of_step {s t : State} (hrst : s.pins.rst = false)
    (h : step s = .next t) : s.portEvents.ready <+: t.ready := by
  rcases step_cases_of_not_rst hrst h with ⟨-, rfl⟩ | ⟨q, rest, -, rfl⟩
  · exact List.prefix_rfl
  · exact List.prefix_append ..

/-- After an edge without reset `rsp_valid` is 1 exactly while a response waits (log entry 24). -/
theorem rspValid_of_step {s t : State} (hrst : s.pins.rst = false) (h : step s = .next t) :
    t.rspValid = !t.ready.isEmpty := by
  rcases step_cases_of_not_rst hrst h with ⟨-, rfl⟩ | ⟨q, rest, -, rfl⟩ <;> rfl

end Machine

/-- Settles O13: nothing is taken, so the oldest response stays the oldest. -/
theorem responseHeldUntilTaken : Obligations.ResponseHeldUntilTaken := by
  intro s hvalid hne hrst hnotReady
  obtain ⟨t, hstep⟩ := Machine.exists_step s
  obtain ⟨x, rest, hready⟩ := List.exists_cons_of_ne_nil hne
  obtain ⟨added, hadded⟩ := Machine.portEvents_ready_prefix_of_step hrst hstep
  rw [s.portEvents_ready_of_not_rspReady hnotReady, hready, List.cons_append] at hadded
  have htvalid : t.rspValid = true := by simp [Machine.rspValid_of_step hrst hstep, ← hadded]
  refine ⟨t, hstep, htvalid, ?_⟩
  rw [Machine.State.rspPayload_of_ready htvalid hadded.symm,
    Machine.State.rspPayload_of_ready hvalid hready]

/-- Settles O14: without `req_ready` nothing is accepted, and the host's next pins are those its
discipline promises. -/
theorem requestOfferedUntilAccepted : Obligations.RequestOfferedUntilAccepted := by
  intro s t hkeeps hrst hvalid hnotReady hstep
  obtain ⟨p, rest, htail, hpvalid, hpreq⟩ := hkeeps hrst hvalid hnotReady
  have hpins : t.pins = p :=
    Machine.State.pins_of_host ((Machine.cycle_and_host_of_step hstep).2.trans htail)
  obtain ⟨haccepted, -⟩ := transfersFollowTheHandshake s t hrst hstep
  refine ⟨by simpa [hnotReady] using haccepted, ?_, ?_⟩
  · rw [hpins, hpvalid]
  · rw [hpins, hpreq]

/-! ### Runs of edges -/

namespace Machine

/-- A property that every edge keeps holds after a run over all the edges the host drives. -/
theorem exists_run_of_invariant {P : State → Prop}
    (hkeep : ∀ (s t : State) (p : Pins) (rest : List Pins), s.host = p :: rest → t.host = rest →
      step s = .next t → P s → P t) (s : State) (hs : P s) :
    ∃ t, core.run s.host.length s = .next t ∧ t.host = [] ∧ P t := by
  induction hlen : s.host.length generalizing s with
  | zero => exact ⟨s, rfl, List.eq_nil_of_length_eq_zero hlen, hs⟩
  | succ n ih =>
    obtain ⟨p, rest, hhost⟩ := List.exists_cons_of_length_eq_add_one hlen
    obtain ⟨t, hstep⟩ := exists_step s
    have hthost : t.host = rest := by rw [(cycle_and_host_of_step hstep).2, hhost, List.tail_cons]
    rw [run_of_step hstep]
    refine ih t (hkeep s t p rest hhost hthost hstep hs) ?_
    rw [hhost, List.length_cons] at hlen
    exact hthost ▸ Nat.succ.inj hlen

/-! ### What an edge without reset does to the counters -/

/-- Only an acceptance makes the queue longer (R28). -/
theorem State.portEvents_inFlight_le {s : State} (hnone : (s.pins.reqValid && s.reqReady) = false) :
    s.portEvents.inFlight ≤ s.inFlight := by
  have hready := s.portEvents_ready_length_le
  have hpending : s.portEvents.pending.length = s.pending.length := by
    simp [s.portEvents_pending, hnone]
  simp only [State.inFlight]
  omega

/-- Without an acceptance the counter of `req_ready` goes down (R130). -/
theorem State.portEvents_readyIn {s : State} (hnone : (s.pins.reqValid && s.reqReady) = false) :
    s.portEvents.readyIn = s.readyIn - 1 := by
  unfold State.portEvents
  rcases s.takeResponse.ageQueue.acceptRequest_cases with ⟨hvalid, hready, -⟩ | ⟨-, hsame⟩
  · rw [State.ageQueue_pins, State.takeResponse_pins] at hvalid
    rw [State.ageQueue_reqReady, State.takeResponse_reqReady] at hready
    simp [hvalid, hready] at hnone
  · simp [hsame]

/-- After an edge without reset and acceptance: the counter has gone down, the queue is not longer, and
`req_ready` is 1 where the counter is over and there is room (R130). -/
theorem request_port_of_step {s t : State} (hrst : s.pins.rst = false)
    (hnone : (s.pins.reqValid && s.reqReady) = false) (h : step s = .next t) :
    t.readyIn = s.readyIn - 1 ∧ t.inFlight ≤ s.inFlight ∧
      t.reqReady = (t.readyIn == 0 && decide (t.inFlight < Config.depth)) := by
  have hreadyIn := State.portEvents_readyIn hnone
  have hflight := State.portEvents_inFlight_le hnone
  rcases step_cases_of_not_rst hrst h with ⟨-, rfl⟩ | ⟨q, rest, hp, rfl⟩
  · exact ⟨hreadyIn, hflight, rfl⟩
  · exact ⟨hreadyIn, (State.afterAnswer_inFlight _ hp).trans_le hflight, rfl⟩

/-- What holds while the host requests nothing: it will not, the queue has room, and the edges to come
suffice for the counter of `req_ready`, which is 1 when they are over. -/
def State.becomesReady (s : State) : Prop :=
  (∀ p ∈ s.host, p.offersNothing) ∧ s.inFlight < Config.depth ∧ s.readyIn ≤ s.host.length ∧
    (s.host = [] → s.reqReady = true)

/-- Every edge keeps `becomesReady`: after the last one the counter is over. -/
theorem becomesReady_of_step {s t : State} {p : Pins} {rest : List Pins} (hhost : s.host = p :: rest)
    (hthost : t.host = rest) (hstep : step s = .next t) (hs : s.becomesReady) : t.becomesReady := by
  obtain ⟨hoffers, hroom, hcount, -⟩ := hs
  rw [hhost] at hoffers hcount
  obtain ⟨⟨hrst, hvalid⟩, hrest⟩ := List.forall_mem_cons.1 hoffers
  rw [← State.pins_of_host hhost] at hrst hvalid
  obtain ⟨hreadyIn, hflight, hready⟩ :=
    request_port_of_step hrst (by simp [hvalid]) hstep
  have htcount : t.readyIn ≤ rest.length := by
    rw [List.length_cons] at hcount
    omega
  have htroom := hflight.trans_lt hroom
  refine ⟨hthost ▸ hrest, htroom, hthost ▸ htcount, fun hnil => ?_⟩
  have hzero : t.readyIn = 0 := by simpa [hthost.symm.trans hnil] using htcount
  simp [hready, hzero, htroom]

end Machine

/-- Settles O22: one edge more than the counter of `req_ready` says. -/
theorem requestPortBecomesReadyInFiniteTime : Obligations.RequestPortBecomesReadyInFiniteTime := by
  intro s _ hroom
  refine ⟨s.readyIn + 1, fun hs hlen hoffers => ?_⟩
  have hstart : Machine.State.becomesReady { s with host := hs } :=
    ⟨hoffers, hroom, hlen.symm ▸ Nat.le_succ _, fun hnil =>
      absurd (hlen.symm.trans (congrArg List.length hnil)) (Nat.succ_ne_zero _)⟩
  obtain ⟨t, hrun, hnil, -, -, -, hready⟩ := Machine.exists_run_of_invariant
    (fun _ _ _ _ => Machine.becomesReady_of_step) _ hstart
  exact ⟨t, hlen ▸ hrun, hready hnil⟩

/-! ### What a state owes -/

namespace Machine

/-- The responses to all requests accepted before, in order: taken, waiting and to come (R37, R38). -/
def State.promised (s : State) : List Response :=
  s.taken ++ s.ready ++ s.pending.map fun p => respond p.req

/-- The edges after which waiting requests are all executed: one edge each, after its own wait (R133,
R134; log entry 2). -/
def edgesToRun (ps : List Pending) : Nat := (ps.map fun p => p.wait + 1).sum

/-- The edges after which the block has computed the first `n` responses of the run. -/
def State.edgesToCompute (s : State) (n : Nat) : Nat :=
  edgesToRun (s.pending.take (n - (s.taken ++ s.ready).length))

/-- The edges with `rsp_ready = 1` after which the first `n` responses of the run have been taken: those
after which they are computed, and one for each still to be taken. -/
def State.edgesOwed (s : State) (n : Nat) : Nat := s.edgesToCompute n + (n - s.taken.length)

@[simp] theorem edgesToRun_nil : edgesToRun [] = 0 := rfl

@[simp] theorem edgesToRun_cons (p : Pending) (ps : List Pending) :
    edgesToRun (p :: ps) = p.wait + 1 + edgesToRun ps := by
  simp [edgesToRun]

/-- No request waits longer by waiting a cycle. -/
theorem edgesToRun_age_le (ps : List Pending) : edgesToRun (ps.map Pending.age) ≤ edgesToRun ps := by
  induction ps with
  | nil => exact le_rfl
  | cons p ps ih =>
    simp only [List.map_cons, edgesToRun_cons, Pending.age_wait]
    omega

/-- A request that still waits after a cycle has waited it. -/
theorem edgesToRun_age_lt {p : Pending} (h : p.age.wait ≠ 0) (ps : List Pending) :
    edgesToRun ((p :: ps).map Pending.age) < edgesToRun (p :: ps) := by
  have hrest := edgesToRun_age_le ps
  rw [Pending.age_wait] at h
  simp only [List.map_cons, edgesToRun_cons, Pending.age_wait]
  omega

/-- Among the requests already waiting, the events of an edge change only the wait. -/
theorem State.portEvents_pending_take {s : State} {n : Nat} (hn : n ≤ s.promised.length) :
    s.portEvents.pending.take (n - (s.portEvents.taken ++ s.portEvents.ready).length) =
      (s.pending.take (n - (s.taken ++ s.ready).length)).map Pending.age := by
  have hle : n - (s.taken ++ s.ready).length ≤ (s.pending.map Pending.age).length := by
    simp only [State.promised, List.length_append, List.length_map] at hn ⊢
    omega
  rw [s.portEvents_taken_ready, s.portEvents_pending, List.take_append_of_le_length hle,
    List.map_take]

/-- The end of an edge computes nothing. -/
@[simp] theorem State.endEdge_edgesToCompute (s : State) (n : Nat) :
    s.endEdge.edgesToCompute n = s.edgesToCompute n := rfl

/-- An answer is the one edge that was left for its request. -/
theorem State.edgesToCompute_afterAnswer {s : State} {q : Request} {rest : List Pending}
    (hp : s.pending = ⟨q, 0⟩ :: rest) (x : Response) (n : Nat) :
    (s.afterAnswer rest x).edgesToCompute n = s.edgesToCompute n - 1 := by
  have howed : n - (s.taken ++ (s.ready ++ [x])).length = n - (s.taken ++ s.ready).length - 1 := by
    rw [← List.append_assoc, List.length_append, List.length_singleton, Nat.sub_add_eq]
  simp only [State.edgesToCompute, State.afterAnswer_pending, State.afterAnswer_taken,
    State.afterAnswer_ready, hp, howed]
  cases n - (s.taken ++ s.ready).length with
  | zero => simp
  | succ k => simp

/-- Where the oldest request is not due, it waits. -/
theorem State.wait_ne_zero_of_not_due {s : State} {p : Pending} {rest : List Pending}
    (hdue : s.due = none) (hp : s.pending = p :: rest) : p.wait ≠ 0 := by
  intro hwait
  have hsome : s.due = some p.req := State.due_eq_some.2 ⟨rest, by rw [hp, ← hwait]⟩
  rw [hdue] at hsome
  cases hsome

/-- The events of an edge leave no request waiting longer. -/
theorem State.portEvents_edgesToCompute_le {s : State} {n : Nat} (hn : n ≤ s.promised.length) :
    s.portEvents.edgesToCompute n ≤ s.edgesToCompute n := by
  unfold State.edgesToCompute
  rw [State.portEvents_pending_take hn]
  exact edgesToRun_age_le _

/-- Where no request is due after the events of an edge, the oldest has waited a cycle. -/
theorem State.portEvents_edgesToCompute_of_not_due {s : State} {n : Nat}
    (hn : n ≤ s.promised.length) (hdue : s.portEvents.due = none) :
    s.portEvents.edgesToCompute n ≤ s.edgesToCompute n - 1 := by
  have htake := State.portEvents_pending_take hn
  unfold State.edgesToCompute
  rw [htake]
  cases howed : s.pending.take (n - (s.taken ++ s.ready).length) with
  | nil => exact Nat.zero_le _
  | cons p ps =>
    rw [howed, List.map_cons] at htake
    obtain ⟨later, hlater⟩ := htake ▸ List.take_prefix _ s.portEvents.pending
    have hwaits := State.wait_ne_zero_of_not_due hdue hlater.symm
    exact Nat.le_sub_one_of_lt (edgesToRun_age_lt hwaits ps)

/-- Every edge without reset brings the first `n` responses one edge nearer, until they are computed:
the oldest request has waited a cycle or is executed (R130, R134). -/
theorem edgesToCompute_of_step {s t : State} {n : Nat} (hrst : s.pins.rst = false)
    (hn : n ≤ s.promised.length) (h : step s = .next t) :
    t.edgesToCompute n ≤ s.edgesToCompute n - 1 := by
  rcases step_cases_of_not_rst hrst h with ⟨hdue, rfl⟩ | ⟨q, rest, hp, rfl⟩
  · exact State.portEvents_edgesToCompute_of_not_due hn hdue
  · rw [State.endEdge_edgesToCompute, State.edgesToCompute_afterAnswer hp]
    exact Nat.sub_le_sub_right (State.portEvents_edgesToCompute_le hn) 1

/-- With no edge left to compute the first `n` responses, they are taken or waiting. -/
theorem State.le_of_edgesToCompute_eq_zero {s : State} {n : Nat} (hn : n ≤ s.promised.length)
    (h : s.edgesToCompute n = 0) : n ≤ s.taken.length + s.ready.length := by
  unfold State.edgesToCompute at h
  simp only [State.promised, List.length_append, List.length_map] at hn h
  cases hp : s.pending with
  | nil => simpa [hp] using hn
  | cons p ps =>
    cases howed : n - (s.taken.length + s.ready.length) with
    | zero => exact Nat.le_of_sub_eq_zero howed
    | succ k => simp [hp, howed] at h

/-- A response that waits is taken at an edge with `rsp_ready = 1`, where `rsp_valid` shows it (R28). -/
theorem taken_length_of_step {s t : State} (hrst : s.pins.rst = false) (hs : s.interfaceOk)
    (h : step s = .next t) :
    t.taken.length = s.taken.length + if s.pins.rspReady then min 1 s.ready.length else 0 := by
  obtain ⟨hvalid, -, -⟩ := hs
  obtain ⟨-, htaken⟩ := transfersFollowTheHandshake s t hrst h
  rw [htaken, List.length_append]
  cases s.pins.rspReady with
  | false => simp
  | true =>
    cases hready : s.ready with
    | nil => simp
    | cons x rest =>
      have hv : s.rspValid = true := hvalid.2 (by simp [hready])
      simp [hv]

/-- An edge with `rsp_ready = 1` is one less of those owed, until none is; no other edge adds to them
(R130). -/
theorem edgesOwed_of_step {s t : State} {n : Nat} (hrst : s.pins.rst = false) (hs : s.interfaceOk)
    (hn : n ≤ s.promised.length) (h : step s = .next t) :
    t.edgesOwed n ≤ s.edgesOwed n - if s.pins.rspReady then 1 else 0 := by
  have hcompute := edgesToCompute_of_step hrst hn h
  have htaken := taken_length_of_step hrst hs h
  have hcomputed := State.le_of_edgesToCompute_eq_zero hn
  unfold State.edgesOwed
  cases hready : s.pins.rspReady <;>
    simp only [hready, Bool.false_eq_true, if_true, if_false] at htaken ⊢ <;> omega

/-- A step without reset promises the response to the request it accepts, if any, as the last (R38). -/
theorem promised_of_step {s t : State} (hrst : s.pins.rst = false) (h : step s = .next t) :
    t.promised = s.promised ++
      (if s.pins.reqValid && s.reqReady then [respond s.pins.req] else []) := by
  have hevents : s.portEvents.promised = s.promised ++
      (if s.pins.reqValid && s.reqReady then [respond s.pins.req] else []) := by
    unfold State.promised
    rw [s.portEvents_taken_ready, s.portEvents_pending, List.map_append, map_respond_age]
    split <;> simp
  rw [← hevents]
  rcases step_cases_of_not_rst hrst h with ⟨-, rfl⟩ | ⟨q, rest, hp, rfl⟩
  · rfl
  · simp [State.promised, hp, respond_eq]

/-! ### Responses come -/

/-- What holds while `target` is still to be delivered: the host does not reset, the responses of
`target` are the first of those promised, and `rsp_ready` is 1 at as many of the edges to come as are
owed for them. -/
def State.delivers (target : List Response) (s : State) : Prop :=
  (∀ p ∈ s.host, p.rst = false) ∧ s.interfaceOk ∧ target <+: s.promised ∧
    s.edgesOwed target.length ≤ s.host.countP (·.rspReady)

/-- Every edge keeps `delivers`. -/
theorem delivers_of_step {target : List Response} {s t : State} {p : Pins} {rest : List Pins}
    (hhost : s.host = p :: rest) (hthost : t.host = rest) (hstep : step s = .next t)
    (hs : s.delivers target) : t.delivers target := by
  obtain ⟨hnoReset, hok, hprefix, howed⟩ := hs
  rw [hhost] at hnoReset
  obtain ⟨hrst, hrest⟩ := List.forall_mem_cons.1 hnoReset
  rw [hhost, List.countP_cons] at howed
  rw [← State.pins_of_host hhost] at hrst howed
  have hless := edgesOwed_of_step hrst hok hprefix.length_le hstep
  refine ⟨hthost ▸ hrest, stepKeepsTheInterfaceInvariant s t hok hstep, ?_, ?_⟩
  · rw [promised_of_step hrst hstep]
    exact hprefix.trans (List.prefix_append ..)
  · rw [hthost]
    omega

/-- With no edge owed for them, the first of the promised responses have been taken. -/
theorem State.prefix_taken_of_edgesOwed {s : State} {target : List Response}
    (hprefix : target <+: s.promised) (h : s.edgesOwed target.length = 0) : target <+: s.taken := by
  have hlen : target.length ≤ s.taken.length :=
    Nat.le_of_sub_eq_zero (Nat.add_eq_zero_iff.1 h).2
  have htaken : s.taken <+: s.promised := by
    rw [State.promised, List.append_assoc]
    exact List.prefix_append ..
  exact List.prefix_of_prefix_length_le hprefix htaken hlen

end Machine

/-- Settles O21: at every edge with `rsp_ready = 1` one less is owed. -/
theorem acceptedRequestsAreAnsweredInFiniteTime :
    Obligations.AcceptedRequestsAreAnsweredInFiniteTime := by
  intro s hok
  refine ⟨s.edgesOwed s.promised.length, fun hs hnoReset hcount => ?_⟩
  have hstart : Machine.State.delivers s.promised { s with host := hs } :=
    ⟨hnoReset, hok, List.prefix_rfl, hcount⟩
  obtain ⟨t, hrun, hnil, -, -, hprefix, howed⟩ := Machine.exists_run_of_invariant
    (fun _ _ _ _ => Machine.delivers_of_step) _ hstart
  rw [hnil] at howed
  exact ⟨t, hrun, Machine.State.prefix_taken_of_edgesOwed hprefix (Nat.le_zero.1 howed)⟩

/-! ### A request that stays offered is accepted -/

namespace Machine

/-- The edges until the block accepts, while the host takes every response: those owed for all the
responses promised, the counter of `req_ready`, and one more while `req_ready` is 0 (R130). -/
def State.edgesToAccept (s : State) : Nat :=
  s.edgesOwed s.promised.length + s.readyIn + if s.reqReady then 0 else 1

/-- With no edge owed for the responses promised, the queue has room: it is empty (R9). -/
theorem State.inFlight_lt_of_edgesOwed {s : State} (h : s.edgesOwed s.promised.length = 0) :
    s.inFlight < Config.depth := by
  have howed := (Nat.add_eq_zero_iff.1 h).2
  simp only [State.promised, List.length_append, List.length_map] at howed
  simp only [State.inFlight, Config.depth]
  omega

/-- An edge at which `req_ready` is 0 and the host takes responses is one less of those until the block
accepts: a response is nearer, or the counter runs, or `req_ready` rises. -/
theorem edgesToAccept_of_step {s t : State} (hrst : s.pins.rst = false)
    (hrspReady : s.pins.rspReady = true) (hs : s.interfaceOk) (hreqReady : s.reqReady = false)
    (h : step s = .next t) : t.edgesToAccept < s.edgesToAccept := by
  obtain ⟨hreadyIn, -, hready⟩ :=
    request_port_of_step hrst (by simp [hreqReady]) h
  have hpromised : t.promised = s.promised := by simp [promised_of_step hrst h, hreqReady]
  have howed := edgesOwed_of_step hrst hs le_rfl h
  rw [← hpromised] at howed
  simp only [hrspReady, if_true] at howed
  have hrises : t.edgesOwed t.promised.length = 0 → t.readyIn = 0 → t.reqReady = true :=
    fun hnone hzero => by simp [hready, hzero, State.inFlight_lt_of_edgesOwed hnone]
  unfold State.edgesToAccept
  rw [← hpromised, hreqReady]
  cases htready : t.reqReady with
  | true =>
    simp only [if_true, Bool.false_eq_true, if_false]
    omega
  | false =>
    simp only [htready, Bool.false_eq_true, imp_false] at hrises ⊢
    omega

/-- What holds while the host presents `q` and takes responses: `q` has joined the record `before`, or
the edges to come suffice for it. -/
def State.willAccept (before : List Request) (q : Request) (s : State) : Prop :=
  (∀ p ∈ s.host, p.takesResponses ∧ p.reqValid = true ∧ p.req = q) ∧ s.interfaceOk ∧
    (before ++ [q] <+: s.accepted ∨ s.accepted = before ∧ s.edgesToAccept < s.host.length)

/-- Every edge keeps `willAccept`: with `req_ready` the request joins the record, without it is one edge
nearer. -/
theorem willAccept_of_step {before : List Request} {q : Request} {s t : State} {p : Pins}
    {rest : List Pins} (hhost : s.host = p :: rest) (hthost : t.host = rest)
    (hstep : step s = .next t) (hs : s.willAccept before q) : t.willAccept before q := by
  obtain ⟨hoffers, hok, hprogress⟩ := hs
  rw [hhost] at hoffers hprogress
  obtain ⟨⟨⟨hrst, hrspReady⟩, hvalid, hreq⟩, hrest⟩ := List.forall_mem_cons.1 hoffers
  rw [← State.pins_of_host hhost] at hrst hrspReady hvalid hreq
  obtain ⟨haccepted, -⟩ := transfersFollowTheHandshake s t hrst hstep
  refine ⟨hthost ▸ hrest, stepKeepsTheInterfaceInvariant s t hok hstep, ?_⟩
  rcases hprogress with hdone | ⟨hbefore, hedges⟩
  · exact .inl (haccepted ▸ hdone.trans (List.prefix_append ..))
  · cases hreqReady : s.reqReady with
    | true => exact .inl (by simp [haccepted, hbefore, hvalid, hreqReady, hreq])
    | false =>
      have hnearer := edgesToAccept_of_step hrst hrspReady hok hreqReady hstep
      refine .inr ⟨by simp [haccepted, hbefore, hreqReady], hthost ▸ ?_⟩
      rw [List.length_cons] at hedges
      omega

end Machine

/-- Settles O23: one edge more than those until the block accepts. -/
theorem offeredRequestIsAcceptedInFiniteTime : Obligations.OfferedRequestIsAcceptedInFiniteTime := by
  intro s q hok
  refine ⟨s.edgesToAccept + 1, fun hs hlen hoffers => ?_⟩
  have hstart : Machine.State.willAccept s.accepted q { s with host := hs } :=
    ⟨hoffers, hok, .inr ⟨rfl, hlen.symm ▸ Nat.lt_succ_self _⟩⟩
  obtain ⟨t, hrun, hnil, -, -, hprogress⟩ := Machine.exists_run_of_invariant
    (fun _ _ _ _ => Machine.willAccept_of_step) _ hstart
  rcases hprogress with hdone | ⟨-, hedges⟩
  · exact ⟨t, hlen ▸ hrun, hdone⟩
  · rw [hnil] at hedges
    exact absurd hedges (Nat.not_lt_zero _)

end Sys2Proof
